-- ==== Sys2Proof/Word.lean ====
section
/-! DEFINITION. The word types of the video frame decoder core (spec 00_scope.md R11, R14; 20_memory.md R50). -/

namespace Sys2Proof

/-- One byte of the input buffer or of the raster (R22, R34). -/
abbrev Byte := BitVec 8

/-- A 22-bit marker: picture start, slice start, end of stream or end of picture (R11). -/
abbrev Marker := BitVec 22

/-- A run of stream bits, the first stream bit at the head (R15). -/
abbrev Bits := List Bool

/-- A block: 64 integers in raster order, index `8*r + c` (R16); unbounded integers by R42. -/
abbrev Block := Vector Int 64

/-- A finite non-negative `f64` (R34, R226: `DECODE_SECONDS` is a non-negative value of type `f64`): its sign bit is 0
and its exponent field is not the all-ones pattern of infinities and NaNs. -/
structure NonNegF64 where
  exponent : Fin 2047
  fraction : BitVec 52
  deriving DecidableEq, Repr, Inhabited

end Sys2Proof
end

