-- ==== Sys2Proof/Machine/Codes.lean ====
section
/-! DEFINITION. The decode tables `CLZ8`, `RUNTAB` and `LEVTAB` (spec 10_state.md R35, R38, R39; 00_scope.md P10, P11): a
table over every window of its width, its lookup, and the reference contents of the three (30_encoding.md R78, R79). The
tables themselves are fields of `Cfg`. -/

namespace Sys2Proof

/-! ### The entries -/

/-- A second-class symbol: a level or the end-of-block sentinel (R39). -/
inductive LevelSymbol where
  | level (v : Int)
  | eob
  deriving DecidableEq, Repr

/-- An entry of `RUNTAB` that is not `Reserved`: `(len, run)` with `1 ≤ len ≤ 12` and `0 ≤ run ≤ 63` (R39). -/
structure RunEntry where
  /-- `len - 1` -/
  lenPred : Fin 12
  run : Fin 64
  deriving DecidableEq, Repr

/-- `len` of an entry of `RUNTAB`. -/
def RunEntry.len (e : RunEntry) : Nat := e.lenPred.val + 1

/-- What an entry of `LEVTAB` stands for: a level in `-127..-1` or `1..127`, as its sign and its magnitude less 1, or `EOB`
(R39). -/
inductive LevelValue where
  | level (negative : Bool) (magPred : Fin 127)
  | eob
  deriving DecidableEq, Repr

/-- The symbol an entry of `LEVTAB` stands for. -/
def LevelValue.symbol : LevelValue → LevelSymbol
  | .level negative m => .level (if negative then -((m.val : Int) + 1) else (m.val : Int) + 1)
  | .eob => .eob

/-- An entry of `LEVTAB` that is not `Reserved`: its length, `2 ≤ len ≤ 15`, and its value (R39). -/
structure LevelEntry where
  /-- `len - 2` -/
  lenPred : Fin 14
  value : LevelValue
  deriving DecidableEq, Repr

/-- `len` of an entry of `LEVTAB`. -/
def LevelEntry.len (e : LevelEntry) : Nat := e.lenPred.val + 2

/-! ### A table over windows -/

/-- A table with one entry, or `Reserved`, for every window of its width, told by the window's bits from the first one on:
windows that begin alike and hold the same entry share it. Every table over the windows has this form
(`CodeTable.ofTable`), whatever its entries are: several codes for one symbol and an all-zero code among them. -/
inductive CodeTable (α : Type) where
  /-- `Reserved` for every window that comes here -/
  | reserved
  /-- one entry for every window that comes here -/
  | entry (e : α)
  /-- the next bit of the window decides -/
  | branch (zero one : CodeTable α)
  deriving DecidableEq, Repr

/-- The entry of a window; `none` is `Reserved` (R39). -/
def CodeTable.lookup {α : Type} : CodeTable α → Bits → Option α
  | .reserved, _ => none
  | .entry e, _ => some e
  | .branch _ _, [] => none
  | .branch zero one, b :: bs => if b then one.lookup bs else zero.lookup bs

/-- The table that holds, for each window of `n` bits, what `f` gives. -/
def CodeTable.ofTable {α : Type} : Nat → (Bits → Option α) → CodeTable α
  | 0, f =>
    match f [] with
    | none => .reserved
    | some e => .entry e
  | n + 1, f => .branch (ofTable n fun bs => f (false :: bs)) (ofTable n fun bs => f (true :: bs))

/-- Each entry is decided by its own code, the first `len` bits of its windows: the table looks at no bit after them. So two
windows that begin with one code hold one entry, and no code is a prefix of another (R80). -/
def CodeTable.decidedByCode {α : Type} (len : α → Nat) : Nat → CodeTable α → Bool
  | _, .reserved => true
  | depth, .entry e => decide (depth ≤ len e)
  | depth, .branch zero one => decidedByCode len (depth + 1) zero && decidedByCode len (depth + 1) one

/-- The entries with the bits that lead to each. -/
def CodeTable.codes {α : Type} : CodeTable α → List (Bits × α)
  | .reserved => []
  | .entry e => [([], e)]
  | .branch zero one =>
    zero.codes.map (fun x => (false :: x.1, x.2)) ++ one.codes.map (fun x => (true :: x.1, x.2))

/-- Each symbol has one code, and it leads to the entry bit for bit. -/
def CodeTable.oneCode {α β : Type} [DecidableEq β] (len : α → Nat) (symbol : α → β) (t : CodeTable α) : Bool :=
  t.codes.all (fun x => len x.2 == x.1.length) && decide (t.codes.map fun x => symbol x.2).Nodup

/-- The code of the first entry with the property `p`: the first `len` bits of its first window. -/
def CodeTable.codeOf {α : Type} (len : α → Nat) (p : α → Bool) (t : CodeTable α) : Option Bits :=
  (t.codes.find? fun x => p x.2).map fun x => (x.1 ++ List.replicate (len x.2 - x.1.length) false).take (len x.2)

/-- The bits that make a window of `n` bits reserved, of the first reserved window (R81). -/
def CodeTable.reservedPattern {α : Type} : Nat → CodeTable α → Option Bits
  | _, .reserved => some []
  | _, .entry _ => none
  | 0, .branch _ _ => some []
  | n + 1, .branch zero one =>
    match reservedPattern n zero with
    | some bs => some (false :: bs)
    | none => (reservedPattern n one).map (true :: ·)

/-! ### Symbols and their codes -/

/-- The level of a magnitude and a sign bit, 1 = negative (R79, R82). -/
def withSign (sg : BitVec 1) (m : Nat) : Int := if sg = 1 then -(m : Int) else m

/-- The code of a run value, the first where `RUNTAB` holds several (R84; log 26). -/
def runCodeOf (t : CodeTable RunEntry) (r : Nat) : Option Bits := t.codeOf RunEntry.len fun e => e.run.val == r

/-- The code of a second-class symbol, the first where `LEVTAB` holds several (R84; log 26). -/
def levelCodeOf (t : CodeTable LevelEntry) (v : LevelSymbol) : Option Bits :=
  t.codeOf LevelEntry.len fun e => e.value.symbol == v

/-- The first pattern that `RUNTAB` reserves; seven zeros under `REF` (R81). -/
def runReservedOf (t : CodeTable RunEntry) : Option Bits := CodeTable.reservedPattern 12 t

/-- The first pattern that `LEVTAB` reserves; eight zeros under `REF` (R81). -/
def levelReservedOf (t : CodeTable LevelEntry) : Option Bits := CodeTable.reservedPattern 15 t

/-! ### The reference contents -/

/-- The number of leading zeros of a byte: the content of `CLZ8` (R38). -/
def clz8 (b : BitVec 8) : Nat :=
  let v := b.toNat
  if 128 ≤ v then 0 else if 64 ≤ v then 1 else if 32 ≤ v then 2 else if 16 ≤ v then 3
  else if 8 ≤ v then 4 else if 4 ≤ v then 5 else if 2 ≤ v then 6 else if 1 ≤ v then 7 else 8

/-- The windows by the number of zeros before their first one: after `z` zeros and a one comes the table number `z` of the
list, and more zeros than the list is long are reserved (R78, R79, R129). -/
def unaryTable {α : Type} : List (CodeTable α) → CodeTable α
  | [] => .reserved
  | t :: ts => .branch (unaryTable ts) t

/-- The windows by their next `k` bits, read as a number, the most significant bit first, after the bits of `x`. -/
def fieldTable {α : Type} (f : Nat → α) : Nat → Nat → CodeTable α
  | 0, x => .entry (f x)
  | k + 1, x => .branch (fieldTable f k (2 * x)) (fieldTable f k (2 * x + 1))

/-- `z ≥ 2` zeros, a one, `z - 1` extra bits `x`: run `2^(z-1) + x`, length `2 * z` (R78). -/
def runField (z : Nat) : CodeTable RunEntry :=
  fieldTable (fun x => { lenPred := Fin.ofNat 12 (2 * z - 1), run := Fin.ofNat 64 (2 ^ (z - 1) + x) }) (z - 1) 0

/-- `z ≥ 2` zeros, a one, `z - 1` extra bits `x`, a sign bit: magnitude `2^(z-1) + x`, length `2 * z + 1` (R79). -/
def levelField (z : Nat) : CodeTable LevelEntry :=
  fieldTable (fun y =>
    { lenPred := Fin.ofNat 14 (2 * z - 1)
      value := .level (y % 2 == 1) (Fin.ofNat 127 (2 ^ (z - 1) + y / 2 - 1)) }) z 0

namespace Config

/-- `CLZ8`, in the runs of equal entries in which R38 lists it. -/
def clz8Ref : Vector (Fin 9) 256 :=
  ⟨⟨[8, 7] ++ List.replicate 2 6 ++ List.replicate 4 5 ++ List.replicate 8 4 ++ List.replicate 16 3 ++
    List.replicate 32 2 ++ List.replicate 64 1 ++ List.replicate 128 0⟩, by decide +kernel⟩

/-- PRESUMED (log 1): `RUNTAB` (R78, G5): `1` is run 0, `01` is run 1, then the codes of 2 to 6 zeros. -/
def runTabRef : CodeTable RunEntry :=
  unaryTable [.entry { lenPred := 0, run := 0 }, .entry { lenPred := 1, run := 1 },
    runField 2, runField 3, runField 4, runField 5, runField 6]

/-- PRESUMED (log 1): `LEVTAB` (R79, G5): `1s` is magnitude 1, `01` is `EOB`, then the codes of 2 to 7 zeros. -/
def levTabRef : CodeTable LevelEntry :=
  unaryTable [.branch (.entry { lenPred := 0, value := .level false 0 }) (.entry { lenPred := 0, value := .level true 0 }),
    .entry { lenPred := 0, value := .eob },
    levelField 2, levelField 3, levelField 4, levelField 5, levelField 6, levelField 7]

end Config

end Sys2Proof
end

