-- ==== Sys2Proof/Config.lean ====
section
/-! DEFINITION. The configuration record `Cfg` (spec 00_scope.md R10, P1 to P19), the constraints the spec puts on it
(`Cfg.wf`), the reference instantiation `REF` (93_implementation_defined.md section 2), the test configuration `CfgT`
(R12), and the model's one free value. -/

namespace Sys2Proof

/-- The twelve multipliers of the 8-point kernel (R162), named as the spec names them (`f0298` is `F_0_298`). -/
structure DctConsts where
  f0298 : Int
  f0390 : Int
  f0541 : Int
  f0765 : Int
  f0899 : Int
  f1175 : Int
  f1501 : Int
  f1847 : Int
  f1961 : Int
  f2053 : Int
  f2562 : Int
  f3072 : Int
  deriving DecidableEq, Repr

/-- `ERRCODE[kind]`, the numeric code of each of the seven error kinds (P19, R240), in the 4 bits of `ERR` (R27). -/
structure ErrCodes where
  truncatedInput : BitVec 4
  invalidHeader : BitVec 4
  unsupportedMacroblock : BitVec 4
  invalidDescriptor : BitVec 4
  badSliceMarker : BitVec 4
  badTrailer : BitVec 4
  truncatedBlock : BitVec 4
  deriving DecidableEq, Repr

/-- The codes in the order of R240. -/
def ErrCodes.toList (e : ErrCodes) : List (BitVec 4) :=
  [e.truncatedInput, e.invalidHeader, e.unsupportedMacroblock, e.invalidDescriptor, e.badSliceMarker, e.badTrailer,
   e.truncatedBlock]

/-- The constants an implementation fixes (R10). Nothing the machine does changes one of them (R35, R45, R273).
`WINDOW_BITS` (P16) has no architectural effect and is left out, as 93_implementation_defined.md
I10 asks. -/
structure Cfg where
  /-- `PSC`, the picture start marker (P1). -/
  psc : Marker
  /-- `GOB_MASK` (P2). -/
  gobMask : Marker
  /-- `GOB_MATCH` (P2). -/
  gobMatch : Marker
  /-- `EOS`, the end-of-stream marker in slice position (P3). -/
  eos : Marker
  /-- `EOP`, the end-of-picture constant of the trailer (P4). -/
  eop : Marker
  /-- `FORMAT_BASE[1..3]` as (width, height), entry 0 for format 1 (P5). -/
  formatBase : Vector (Nat × Nat) 3
  /-- `HDR_DISCARD_BITS` (P6). -/
  hdrDiscardBits : Nat
  /-- `GOB_EXTRA_BITS` (P7). -/
  gobExtraBits : Nat
  /-- `ZIGZAG`: scan index to raster position (P8, R36). -/
  zigzag : Vector (Fin 64) 64
  /-- `IQUANT`: multiplier per raster position (P9, R37). -/
  iquant : Vector Nat 64
  /-- `CLZ8`: leading zeros of a byte (P10, R38). -/
  clz8 : Vector (Fin 9) 256
  /-- `RUNTAB`: the entry of each of the 4096 windows of 12 bits (P11, R39). -/
  runTab : CodeTable RunEntry
  /-- `LEVTAB`: the entry of each of the 32768 windows of 15 bits (P11, R39). -/
  levTab : CodeTable LevelEntry
  /-- `MBMAP`: luma sample index to footprint position (P12, R40). -/
  mbmap : Vector (Fin 256) 256
  /-- `CHROMAMAP`: luma sample index to chroma sample index (P13, R41). -/
  chromamap : Vector (Fin 64) 256
  /-- `CONST_BITS` (P14). -/
  constBits : Nat
  /-- `PASS1_BITS` (P14). -/
  pass1Bits : Nat
  /-- The twelve `FIX_*` constants (P14). -/
  dct : DctConsts
  /-- `CSC_ROUND` (P15). -/
  cscRound : Nat
  /-- `RASTER_FILL` (P17). -/
  rasterFill : Byte
  /-- `MAX_WIDTH`; `none` is "no bound" (P18). -/
  maxWidth : Option Nat
  /-- `MAX_HEIGHT`; `none` is "no bound" (P18). -/
  maxHeight : Option Nat
  /-- `ERRCODE` (P19). -/
  errCode : ErrCodes
  deriving DecidableEq, Repr

/-- `RUNTAB` and `LEVTAB` hold prefix codes: no code of a class is a prefix of another one (R80). That `len`, the run values
and the levels are in the ranges of R39 is in the types of the entries. -/
abbrev Cfg.codesWf (c : Cfg) : Prop :=
  CodeTable.decidedByCode RunEntry.len 0 c.runTab = true ∧ CodeTable.decidedByCode LevelEntry.len 0 c.levTab = true

/-- The code tables are those of `REF` (R38, R78, R79). -/
abbrev Cfg.refCodes (c : Cfg) : Prop :=
  c.clz8 = Config.clz8Ref ∧ c.runTab = Config.runTabRef ∧ c.levTab = Config.levTabRef

/-- Each run value and each second-class symbol has one code at most (log 26). -/
abbrev Cfg.oneCode (c : Cfg) : Prop :=
  CodeTable.oneCode RunEntry.len RunEntry.run c.runTab = true ∧
  CodeTable.oneCode LevelEntry.len LevelEntry.value c.levTab = true

/-- The codes tell the seven kinds apart, and from `None`, which is 0 (R27, R240). DEDUCED (log 24): the spec calls them the
codes of `ERR`, from which the host reads the kind. -/
abbrev Cfg.errCodesWf (c : Cfg) : Prop := (0 :: c.errCode.toList).Nodup

/-- What the spec requires of any `Cfg` (column "source" of R10; R36, R37, R40, R41): `ZIGZAG` is a bijection on 0..63
with `ZIGZAG[0] = 0`, every `IQUANT` entry is in 3..31, `MBMAP` is a bijection on 0..255, `CHROMAMAP` is the
nearest-neighbour upsampling of `MBMAP`'s positions, `CONST_BITS` is at least 13 ("13+ bits of extra precision"), the
shift of pass 1 is positive, `CSC_ROUND` is in 0..255 (92_eei_decisions.md D22), `CLZ8` counts leading zeros (R38),
the code tables hold prefix codes (R80), and the error codes tell the kinds apart (R27). -/
abbrev Cfg.wf (c : Cfg) : Prop :=
  c.zigzag.toList.Nodup ∧ c.zigzag[0] = 0 ∧
  (∀ q ∈ c.iquant.toList, 3 ≤ q ∧ q ≤ 31) ∧
  c.mbmap.toList.Nodup ∧
  (∀ i : Fin 256, (c.chromamap[i]).val = 8 * ((c.mbmap[i]).val / 16 / 2) + (c.mbmap[i]).val % 16 / 2) ∧
  13 ≤ c.constBits ∧ c.pass1Bits < c.constBits ∧ c.cscRound ≤ 255 ∧
  c.clz8 = Config.clz8Ref ∧ c.codesWf ∧ c.errCodesWf

namespace Config

/-- PRESUMED (log 1): the conventional 8 × 8 zig-zag scan (R36, G3). -/
def zigzagRef : Vector (Fin 64) 64 := #v[
   0,  1,  8, 16,  9,  2,  3, 10,
  17, 24, 32, 25, 18, 11,  4,  5,
  12, 19, 26, 33, 40, 48, 41, 34,
  27, 20, 13,  6,  7, 14, 21, 28,
  35, 42, 49, 56, 57, 50, 43, 36,
  29, 22, 15, 23, 30, 37, 44, 51,
  58, 59, 52, 45, 38, 31, 39, 46,
  53, 60, 61, 54, 47, 55, 62, 63]

/-- PRESUMED (log 1): `IQUANT[8*r + c] = 3 + 2*(r + c)` (R37, G4). -/
def iquantRef : Vector Nat 64 := Vector.ofFn fun p => 3 + 2 * (p.val / 8 + p.val % 8)

/-- `MBMAP[64*b + 8*r + c] = 16*(8*(b div 2) + r) + 8*(b mod 2) + c` (R40). -/
def mbmapRef : Vector (Fin 256) 256 :=
  Vector.ofFn fun i =>
    Fin.ofNat 256 (16 * (8 * (i.val / 64 / 2) + i.val % 64 / 8) + 8 * (i.val / 64 % 2) + i.val % 8)

/-- `CHROMAMAP[64*b + 8*r + c] = 8*(4*(b div 2) + r div 2) + 4*(b mod 2) + c div 2` (R41). -/
def chromamapRef : Vector (Fin 64) 256 :=
  Vector.ofFn fun i =>
    Fin.ofNat 64 (8 * (4 * (i.val / 64 / 2) + i.val % 64 / 8 / 2) + 4 * (i.val / 64 % 2) + i.val % 8 / 2)

/-- PRESUMED (log 1): the multipliers of R162 (G8). -/
def dctRef : DctConsts :=
  { f0298 := 2446, f0390 := 3196, f0541 := 4433, f0765 := 6270, f0899 := 7373, f1175 := 9633
    f1501 := 12299, f1847 := 15137, f1961 := 16069, f2053 := 16819, f2562 := 20995, f3072 := 25172 }

/-- The codes 1 to 7 in the order in which the source lists the kinds (R240, 92_eei_decisions.md D30; log 24). -/
def errCodeRef : ErrCodes :=
  { truncatedInput := 1, invalidHeader := 2, unsupportedMacroblock := 3, invalidDescriptor := 4, badSliceMarker := 5
    badTrailer := 6, truncatedBlock := 7 }

/-- `REF`, the reference instantiation (R10, column "value adopted"; G1 to G9). PRESUMED (log 1): the spec takes these
values from general knowledge, not from its source. -/
def ref : Cfg :=
  { psc := 0x000020, gobMask := 0x3FFFE0, gobMatch := 0x000020, eos := 0x00003F, eop := 0x00003F
    formatBase := #v[(88, 72), (160, 120), (160, 120)]
    hdrDiscardBits := 40, gobExtraBits := 0
    zigzag := zigzagRef, iquant := iquantRef
    clz8 := clz8Ref, runTab := runTabRef, levTab := levTabRef
    mbmap := mbmapRef, chromamap := chromamapRef
    constBits := 13, pass1Bits := 1, dct := dctRef
    cscRound := 128, rasterFill := 0, maxWidth := none, maxHeight := none
    errCode := errCodeRef }

/-- `CfgT`, the test configuration: `REF` with every base resolution 16 × 16 (R12). -/
def cfgT : Cfg := { ref with formatBase := #v[(16, 16), (16, 16), (16, 16)], gobExtraBits := 0 }

/-- The host's measurement of the decode duration, one value per call that delivers a frame (R34, R226): a free
non-negative value, numbered by `State.clockDraws`. It has no body, so no proof can rest on what it is (log 2). -/
opaque wallClock : Nat → NonNegF64

end Config

end Sys2Proof
end

