-- ==== Sys2Proof/Syntax.lean ====
section
/-! DEFINITION. The syntax elements of the compressed frame, one constructor for each row of spec/opcode_table.json
(spec 30_encoding.md R70 to R86), and the grammar positions in which they occur. -/

namespace Sys2Proof

/-- A position of the frame grammar (R70): which kind of element the sequencer reads next. The stream has no opcode
field; the position alone decides how its bits are read (R71). -/
inductive Slot where
  /-- padding up to the next byte boundary -/
  | alignPad
  /-- the picture header -/
  | picHdr
  /-- the 22-bit marker before a slice of index > 0 -/
  | sliceHdr
  /-- the 22-bit marker after the last slice -/
  | trailer
  /-- a macroblock header -/
  | mbHdr
  /-- the DC field that opens a block -/
  | dc
  /-- first-class symbol of the AC loop -/
  | run
  /-- second-class symbol of the AC loop -/
  | level
  deriving DecidableEq, Repr

/-- One syntax element, with the values of its fields. A field value the decoder rejects (a wrong start marker, a zero
selector, a wrong trailer) is an operand: the element that carries it raises the error when it runs. -/
inductive Instr where
  /-- ALIGNPAD (R76): 0 to 7 padding bits, values not examined. -/
  | alignPad (pad : Bits)
  /-- PICHDR (R72): start marker, format and scale selectors, and the discarded type, quant and frame bits. -/
  | picHdr (psc : Marker) (fmt : BitVec 2) (scale : BitVec 3) (discarded : Bits)
  /-- GOBHDR (R73): a slice start marker and the `GOB_EXTRA_BITS` discarded bits after it. -/
  | gobHdr (marker : Marker) (discarded : Bits)
  /-- EOSMARK (R74): the end-of-stream marker in slice position. -/
  | eosMark
  /-- TRAILER (R75): the 22 bits in trailer position. -/
  | trailer (marker : Marker)
  /-- BADMARK (R81): a marker in slice position that is neither `EOS` nor a slice start. -/
  | badMark (marker : Marker)
  /-- MBHDR.C (R77): the coded flag is 1. -/
  | mbHdrC
  /-- MBHDR (R77) with `DESC[7] = 1`, `DESC[6] = 0`: the six has-AC flags. -/
  | mbHdr (flags : BitVec 6)
  /-- MBHDR.R (R77) with `DESC[7] = 1`, `DESC[6] = 1`: the six has-AC flags and the reserved bits. -/
  | mbHdrR (flags : BitVec 6) (rsv : BitVec 2)
  /-- MBHDR.INVALID (R77) with `DESC[7] = 0`: the other seven descriptor bits. -/
  | mbHdrInvalid (low : BitVec 7)
  /-- DC (R86): the unsigned 10-bit coefficient. -/
  | dc (value : BitVec 10)
  /-- RUN.0 (R78): code `1`. -/
  | run0
  /-- RUN.1 (R78): code `01`. -/
  | run1
  /-- RUN.2 (R78): code `001x`. -/
  | run2 (x : BitVec 1)
  /-- RUN.3 (R78): code `0001xx`. -/
  | run3 (x : BitVec 2)
  /-- RUN.4 (R78): code `00001xxx`. -/
  | run4 (x : BitVec 3)
  /-- RUN.5 (R78): code `000001xxxx`. -/
  | run5 (x : BitVec 4)
  /-- RUN.6 (R78): code `0000001xxxxx`. -/
  | run6 (x : BitVec 5)
  /-- RUN.RESERVED (R81): seven or more leading zeros in run position. -/
  | runReserved
  /-- LEVEL.0 (R79): code `1s`. -/
  | level0 (s : BitVec 1)
  /-- LEVEL.2 (R79): code `001xs`. -/
  | level2 (x : BitVec 1) (s : BitVec 1)
  /-- LEVEL.3 (R79): code `0001xxs`. -/
  | level3 (x : BitVec 2) (s : BitVec 1)
  /-- LEVEL.4 (R79): code `00001xxxs`. -/
  | level4 (x : BitVec 3) (s : BitVec 1)
  /-- LEVEL.5 (R79): code `000001xxxxs`. -/
  | level5 (x : BitVec 4) (s : BitVec 1)
  /-- LEVEL.6 (R79): code `0000001xxxxxs`. -/
  | level6 (x : BitVec 5) (s : BitVec 1)
  /-- LEVEL.7 (R79): code `00000001xxxxxxs`. -/
  | level7 (x : BitVec 6) (s : BitVec 1)
  /-- EOB (R79): code `01` in level position. -/
  | eob
  /-- LEVEL.RESERVED (R81): eight or more leading zeros in level position. -/
  | levelReserved
  deriving DecidableEq, Repr

/-- The grammar position in which an element occurs (the table's "context" column; R70). -/
def Instr.slot : Instr → Slot
  | .alignPad _ => .alignPad
  | .picHdr _ _ _ _ => .picHdr
  | .gobHdr _ _ => .sliceHdr
  | .eosMark => .sliceHdr
  | .trailer _ => .trailer
  | .badMark _ => .sliceHdr
  | .mbHdrC => .mbHdr
  | .mbHdr _ => .mbHdr
  | .mbHdrR _ _ => .mbHdr
  | .mbHdrInvalid _ => .mbHdr
  | .dc _ => .dc
  | .run0 => .run
  | .run1 => .run
  | .run2 _ => .run
  | .run3 _ => .run
  | .run4 _ => .run
  | .run5 _ => .run
  | .run6 _ => .run
  | .runReserved => .run
  | .level0 _ => .level
  | .level2 _ _ => .level
  | .level3 _ _ => .level
  | .level4 _ _ => .level
  | .level5 _ _ => .level
  | .level6 _ _ => .level
  | .level7 _ _ => .level
  | .eob => .level
  | .levelReserved => .level

end Sys2Proof
end

