-- ==== Sys2Proof/WellFormed.lean ====
section
/-! DEFINITION. Which syntax elements are well formed under a configuration (spec 30_encoding.md R72 to R76, R81). The
field widths are in the types; what is left is the lengths of the bit runs, the marker classes, and which
symbols the code tables hold. -/

namespace Sys2Proof

/-- A marker in slice position is a slice start (R73): it is not `EOS`, whose test comes first (R74), and it matches
`GOB_MATCH` under `GOB_MASK`. -/
def isSliceStart (c : Cfg) (m : Marker) : Bool := m != c.eos && (m &&& c.gobMask) == c.gobMatch

/-- An element is one the stream can hold under `c`: at most 7 padding bits (R76), as many discarded bits as the
parameters say (R72, R73), each slice marker in its own class (R73, R74, R81), a symbol only where the code tables hold a
code for it (R39), and a reserved pattern only where they reserve one (R81). -/
def Instr.wf (c : Cfg) : Instr → Bool
  | .alignPad pad => pad.length ≤ 7
  | .picHdr _ _ _ d => d.length == c.hdrDiscardBits
  | .gobHdr m d => isSliceStart c m && d.length == c.gobExtraBits
  | .eosMark => true
  | .trailer _ => true
  | .badMark m => m != c.eos && !isSliceStart c m
  | .mbHdrC => true
  | .mbHdr _ => true
  | .mbHdrR _ _ => true
  | .mbHdrInvalid _ => true
  | .dc _ => true
  | .run0 => (runCodeOf c.runTab 0).isSome
  | .run1 => (runCodeOf c.runTab 1).isSome
  | .run2 x => (runCodeOf c.runTab (2 + x.toNat)).isSome
  | .run3 x => (runCodeOf c.runTab (4 + x.toNat)).isSome
  | .run4 x => (runCodeOf c.runTab (8 + x.toNat)).isSome
  | .run5 x => (runCodeOf c.runTab (16 + x.toNat)).isSome
  | .run6 x => (runCodeOf c.runTab (32 + x.toNat)).isSome
  | .runReserved => (runReservedOf c.runTab).isSome
  | .level0 s => (levelCodeOf c.levTab (.level (withSign s 1))).isSome
  | .level2 x s => (levelCodeOf c.levTab (.level (withSign s (2 + x.toNat)))).isSome
  | .level3 x s => (levelCodeOf c.levTab (.level (withSign s (4 + x.toNat)))).isSome
  | .level4 x s => (levelCodeOf c.levTab (.level (withSign s (8 + x.toNat)))).isSome
  | .level5 x s => (levelCodeOf c.levTab (.level (withSign s (16 + x.toNat)))).isSome
  | .level6 x s => (levelCodeOf c.levTab (.level (withSign s (32 + x.toNat)))).isSome
  | .level7 x s => (levelCodeOf c.levTab (.level (withSign s (64 + x.toNat)))).isSome
  | .eob => (levelCodeOf c.levTab .eob).isSome
  | .levelReserved => (levelReservedOf c.levTab).isSome

end Sys2Proof
end

