-- ==== Sys2Proof/Decode.lean ====
section
/-! DEFINITION. The decoder of the compressed frame: from a grammar position and the stream bits that stand there to a
syntax element (spec 30_encoding.md R70 to R83), total on any bits; then the encoder, the assembler notation and the packing into
bytes (R84, R85), and the opcode table's rows with `decodeTableWord`.

No bits are refused: the spec gives every bit pattern at every grammar position an element (R81, R253), and the illegal
ones decode, by name, to the elements whose running raises the error (BADMARK, MBHDR.C, MBHDR.INVALID, RUN.RESERVED,
LEVEL.RESERVED, and the operands of PICHDR and TRAILER). -/

namespace Sys2Proof

/-! ### Bit runs -/

/-- The value of a bit run whose first bit is the most significant one (R14, R52). -/
def bitsToNat : Bits → Nat
  | [] => 0
  | b :: bs => b.toNat * 2 ^ bs.length + bitsToNat bs

/-- The bits of a field, its most significant bit first (R14). -/
def toBits {n : Nat} (v : BitVec n) : Bits := (List.range n).map fun i => v.getMsbD i

/-- Bit `k` of a bit run; a bit the run does not hold is 0 (R53). -/
def bitAt (bits : Bits) (k : Nat) : Bool := bits.getD k false

/-- The `n` bits at offset `off`, in stream order; missing bits are 0. -/
def bitRun (bits : Bits) (off n : Nat) : Bits := (List.range n).map fun i => bitAt bits (off + i)

/-- The `n`-bit field at offset `off`: unsigned, first bit most significant (R14, R82). -/
def field (bits : Bits) (off n : Nat) : BitVec n := BitVec.ofNat n (bitsToNat (bitRun bits off n))

/-- The number of padding bits before the next byte boundary: `(8 - pos mod 8) mod 8` (R76, R105). -/
def padLength (pos : Nat) : Nat := (8 - pos % 8) % 8

/-- How many stream bits the decoder looks at in each grammar position: the longest element of the position (R71), 12
bits for a run and 15 for a level (R83); in padding position exactly the padding. -/
def windowLength (c : Cfg) (pos : Nat) : Slot → Nat
  | .alignPad => padLength pos
  | .picHdr => 27 + c.hdrDiscardBits
  | .sliceHdr => 22 + c.gobExtraBits
  | .trailer => 22
  | .mbHdr => 11
  | .dc => 10
  | .run => 12
  | .level => 15

/-! ### The decoder -/

/-- A marker in slice position (R73, R74, R81); the test for `EOS` comes first. -/
def decodeSliceHdr (c : Cfg) (bits : Bits) : Instr :=
  let m := field bits 0 22
  if m = c.eos then .eosMark
  else if (m &&& c.gobMask) = c.gobMatch then .gobHdr m (bitRun bits 22 c.gobExtraBits)
  else .badMark m

/-- A macroblock header (R77). -/
def decodeMbHdr (bits : Bits) : Instr :=
  let desc := field bits 1 8
  if bitAt bits 0 then .mbHdrC
  else if desc.getLsbD 7 then
    if desc.getLsbD 6 then .mbHdrR (desc.extractLsb' 0 6) (field bits 9 2) else .mbHdr (desc.extractLsb' 0 6)
  else .mbHdrInvalid (desc.extractLsb' 0 7)

/-- `RUNTAB[w]`: the code's length and run value, `none` for `Reserved` (R39, R123). -/
def runtab (c : Cfg) (w : BitVec 12) : Option (Nat × Nat) :=
  (c.runTab.lookup (toBits w)).map fun e => (e.len, e.run.val)

/-- `LEVTAB[w]`: the code's length and symbol, `none` for `Reserved` (R39, R123). -/
def levtab (c : Cfg) (w : BitVec 15) : Option (Nat × LevelSymbol) :=
  (c.levTab.lookup (toBits w)).map fun e => (e.len, e.value.symbol)

/-- The element of a run value 0..63: the opcode table's row of that value (R78, R84; log 26). -/
def asmRun (r : Nat) : Instr :=
  if r = 0 then .run0
  else if r = 1 then .run1
  else if r < 4 then .run2 (BitVec.ofNat 1 (r - 2))
  else if r < 8 then .run3 (BitVec.ofNat 2 (r - 4))
  else if r < 16 then .run4 (BitVec.ofNat 3 (r - 8))
  else if r < 32 then .run5 (BitVec.ofNat 4 (r - 16))
  else .run6 (BitVec.ofNat 5 (r - 32))

/-- The element of a level `v`, `1 ≤ |v| ≤ 127` (R79, R84; log 26). -/
def asmLevel (v : Int) : Instr :=
  let s : BitVec 1 := if v < 0 then 1 else 0
  let m := v.natAbs
  if m < 2 then .level0 s
  else if m < 4 then .level2 (BitVec.ofNat 1 (m - 2)) s
  else if m < 8 then .level3 (BitVec.ofNat 2 (m - 4)) s
  else if m < 16 then .level4 (BitVec.ofNat 3 (m - 8)) s
  else if m < 32 then .level5 (BitVec.ofNat 4 (m - 16)) s
  else if m < 64 then .level6 (BitVec.ofNat 5 (m - 32)) s
  else .level7 (BitVec.ofNat 6 (m - 64)) s

/-- A first-class symbol, from its 12-bit window: one lookup in `RUNTAB` (R39, R124, R129). -/
def decodeRun (c : Cfg) (w : BitVec 12) : Instr :=
  match runtab c w with
  | none => .runReserved
  | some (_, r) => asmRun r

/-- A second-class symbol, from its 15-bit window: one lookup in `LEVTAB` (R39, R125, R126, R129). -/
def decodeLevel (c : Cfg) (w : BitVec 15) : Instr :=
  match levtab c w with
  | none => .levelReserved
  | some (_, .eob) => .eob
  | some (_, .level v) => asmLevel v

/-- The element that stands at a grammar position, from the stream bits there (R70, R71). In padding position the bits
are the padding itself, whatever its length. -/
def decode (c : Cfg) : Slot → Bits → Instr
  | .alignPad, bits => .alignPad bits
  | .picHdr, bits => .picHdr (field bits 0 22) (field bits 22 2) (field bits 24 3) (bitRun bits 27 c.hdrDiscardBits)
  | .sliceHdr, bits => decodeSliceHdr c bits
  | .trailer, bits => .trailer (field bits 0 22)
  | .mbHdr, bits => decodeMbHdr bits
  | .dc, bits => .dc (field bits 0 10)
  | .run, bits => decodeRun c (field bits 0 12)
  | .level, bits => decodeLevel c (field bits 0 15)

/-! ### The encoder -/

/-- The stream bits of an element (R72 to R79, R86). A symbol is written as its code of the code tables, the first where it
has several, and a reserved pattern as the first bits that make a window reserved (R81; log 26). -/
def encode (c : Cfg) : Instr → Bits
  | .alignPad pad => pad
  | .picHdr psc fmt scale d => toBits psc ++ (toBits fmt ++ (toBits scale ++ d))
  | .gobHdr m d => toBits m ++ d
  | .eosMark => toBits c.eos
  | .trailer m => toBits m
  | .badMark m => toBits m
  | .mbHdrC => [true]
  | .mbHdr flags => false :: true :: false :: toBits flags
  | .mbHdrR flags rsv => false :: true :: true :: (toBits flags ++ toBits rsv)
  | .mbHdrInvalid low => false :: false :: toBits low
  | .dc v => toBits v
  | .run0 => (runCodeOf c.runTab 0).getD []
  | .run1 => (runCodeOf c.runTab 1).getD []
  | .run2 x => (runCodeOf c.runTab (2 + x.toNat)).getD []
  | .run3 x => (runCodeOf c.runTab (4 + x.toNat)).getD []
  | .run4 x => (runCodeOf c.runTab (8 + x.toNat)).getD []
  | .run5 x => (runCodeOf c.runTab (16 + x.toNat)).getD []
  | .run6 x => (runCodeOf c.runTab (32 + x.toNat)).getD []
  | .runReserved => (runReservedOf c.runTab).getD []
  | .level0 s => (levelCodeOf c.levTab (.level (withSign s 1))).getD []
  | .level2 x s => (levelCodeOf c.levTab (.level (withSign s (2 + x.toNat)))).getD []
  | .level3 x s => (levelCodeOf c.levTab (.level (withSign s (4 + x.toNat)))).getD []
  | .level4 x s => (levelCodeOf c.levTab (.level (withSign s (8 + x.toNat)))).getD []
  | .level5 x s => (levelCodeOf c.levTab (.level (withSign s (16 + x.toNat)))).getD []
  | .level6 x s => (levelCodeOf c.levTab (.level (withSign s (32 + x.toNat)))).getD []
  | .level7 x s => (levelCodeOf c.levTab (.level (withSign s (64 + x.toNat)))).getD []
  | .eob => (levelCodeOf c.levTab .eob).getD []
  | .levelReserved => (levelReservedOf c.levTab).getD []

/-- The length of an element in bits (R71) as `encode` writes it. -/
def bitLength (c : Cfg) (i : Instr) : Nat := (encode c i).length

/-! ### Assembling a stream (R84, R85) -/

/-- The (run, level) pairs of a block and the `RUN 0`, `EOB` that closes it (R85). -/
def asmPairs : List (Nat × Int) → List Instr
  | [] => [.run0, .eob]
  | (r, l) :: rest => asmRun r :: asmLevel l :: asmPairs rest

/-- `BLK <dc> : (r1,l1) ...` (R85), the block of a has-AC flag of 1. -/
def asmBlockAc (dc : BitVec 10) (pairs : List (Nat × Int)) : List Instr := .dc dc :: asmPairs pairs

/-- `FLATMB <y> <cb> <cr>` (R85). -/
def asmFlatMb (y cb cr : BitVec 10) : List Instr := [.mbHdr 0, .dc y, .dc y, .dc y, .dc y, .dc cb, .dc cr]

/-- Zero bits up to the next byte boundary of a stream that is `pos` bits long (`ALIGN`, R85). -/
def asmAlign (pos : Nat) : Bits := List.replicate (padLength pos) false

/-- The bits of a sequence of elements that starts at bit `pos`; a padding element stands for as many zero bits as reach
the next byte boundary (R84). -/
def asmBits (c : Cfg) : Nat → List Instr → Bits
  | _, [] => []
  | pos, .alignPad _ :: rest => asmAlign pos ++ asmBits c (pos + padLength pos) rest
  | pos, i :: rest => encode c i ++ asmBits c (pos + bitLength c i) rest

/-- The stream bit that is bit `7 - j` of byte `a`, `j` in 0..7: the inverse of `a(k)`, `j(k)` of R51. -/
def streamIndex (a j : Nat) : Nat := 32 * (a / 4) + 8 * (3 - a % 4) + j

/-- Byte `a` of the buffer that holds a bit run (R51, R84). -/
def packByte (bits : Bits) (a : Nat) : Byte :=
  BitVec.ofNat 8 (bitsToNat ((List.range 8).map fun j => bitAt bits (streamIndex a j)))

/-- A bit run padded with zeros to a multiple of 32 bits and packed into bytes: bits `32w .. 32w+31` form word `w`, first
bit most significant, stored little-endian (R84). -/
def packBytes (bits : Bits) : List Byte :=
  (List.range (4 * ((bits.length + 31) / 32))).map (packByte bits)

/-! ### The opcode table -/

/-- A row of spec/opcode_table.json: its pattern, read as one number whose bit 0 is the pattern's last stream bit, and
the grammar position its "context" column names. -/
structure TableRow where
  mnemonic : String
  length : Nat
  mask : Nat
  pattern : Nat
  slot : Slot
  deriving DecidableEq, Repr

/-- The rows, in the order in which a table word is tried against them. The stream has no opcode field (R71), so a word
can fit rows of several grammar positions: rows of a fixed pattern come first, in the table's order but for EOSMARK
before GOBHDR (R74), and the rows that take nearly any pattern last (log 6). -/
def tableRows : List TableRow :=
  [⟨"PICHDR", 67, 0x7FFFFE00000000000, 0x4000000000000, .picHdr⟩,
   ⟨"EOSMARK", 22, 0x3FFFFF, 0x3F, .sliceHdr⟩,
   ⟨"GOBHDR", 22, 0x3FFFE0, 0x20, .sliceHdr⟩,
   ⟨"TRAILER", 22, 0x3FFFFF, 0x3F, .trailer⟩,
   ⟨"MBHDR.C", 1, 0x1, 0x1, .mbHdr⟩,
   ⟨"MBHDR", 9, 0x1C0, 0x80, .mbHdr⟩,
   ⟨"MBHDR.R", 11, 0x700, 0x300, .mbHdr⟩,
   ⟨"RUN.0", 1, 0x1, 0x1, .run⟩,
   ⟨"RUN.1", 2, 0x3, 0x1, .run⟩,
   ⟨"RUN.2", 4, 0xE, 0x2, .run⟩,
   ⟨"RUN.3", 6, 0x3C, 0x4, .run⟩,
   ⟨"RUN.4", 8, 0xF8, 0x8, .run⟩,
   ⟨"RUN.5", 10, 0x3F0, 0x10, .run⟩,
   ⟨"RUN.6", 12, 0xFE0, 0x20, .run⟩,
   ⟨"RUN.RESERVED", 7, 0x7F, 0x0, .run⟩,
   ⟨"LEVEL.0", 2, 0x2, 0x2, .level⟩,
   ⟨"LEVEL.2", 5, 0x1C, 0x4, .level⟩,
   ⟨"LEVEL.3", 7, 0x78, 0x8, .level⟩,
   ⟨"LEVEL.4", 9, 0x1F0, 0x10, .level⟩,
   ⟨"LEVEL.5", 11, 0x7E0, 0x20, .level⟩,
   ⟨"LEVEL.6", 13, 0x1FC0, 0x40, .level⟩,
   ⟨"LEVEL.7", 15, 0x7F80, 0x80, .level⟩,
   ⟨"EOB", 2, 0x3, 0x1, .level⟩,
   ⟨"LEVEL.RESERVED", 8, 0xFF, 0x0, .level⟩,
   ⟨"MBHDR.INVALID", 9, 0x180, 0x0, .mbHdr⟩,
   ⟨"BADMARK", 22, 0x0, 0x0, .sliceHdr⟩,
   ⟨"DC", 10, 0x0, 0x0, .dc⟩,
   ⟨"ALIGNPAD", 0, 0x0, 0x0, .alignPad⟩]

/-- Whether a word of `nbits` bits can be this row: the row is that long, or that long in whole bytes, and the word has
no bit above the row's length and carries the row's fixed bits. -/
def TableRow.fits (r : TableRow) (nbits w : Nat) : Bool :=
  (nbits == r.length || nbits == 8 * ((r.length + 7) / 8)) && decide (w < 2 ^ r.length) && (w &&& r.mask) == r.pattern

/-- The row a table word is read as. -/
def rowFor (nbits w : Nat) : Option TableRow := tableRows.find? fun r => r.fits nbits w

/-- The stream bits of a word read as a row: the row's length, first stream bit the most significant (R84). -/
def TableRow.bits (r : TableRow) (w : Nat) : Bits := toBits (BitVec.ofNat r.length w)

/-- What the decoder reads from a word of the opcode table, the bits above it 0, under `REF`; `none` where the word fits
no row. -/
def decodeTableWord (nbits w : Nat) : Option Instr :=
  (rowFor nbits w).map fun r => decode Config.ref r.slot (r.bits w)

end Sys2Proof
end

