-- ==== Sys2Proof/Machine/State.lean ====
section
/-! DEFINITION. The state of one decoder instance (spec 10_state.md R20 to R34, R43, R44), its faults and refusals, and
the state after reset (70_reset_and_hazards.md R270). -/

namespace Sys2Proof.Machine

open Sys2Proof

/-- A byte memory: (address, byte) pairs, addresses strictly rising, no pair equal to what an unlisted address reads as.
Two such memories exist (R50): the input buffer, whose unlisted bytes read 0, and the raster, whose unlisted bytes read
`RASTER_FILL`. -/
abbrev Memory := List Host.Cell

/-- `SEQ`, the sequencer state (R26). -/
inductive Seq where
  | readHeader
  | decodeSlices
  | readTrailer
  | done
  | failed
  deriving DecidableEq, Repr

/-- `ERR`, the error kinds (R27, R240). -/
inductive Err where
  | noError
  | truncatedInput
  | invalidHeader
  | unsupportedMacroblock
  | invalidDescriptor
  | badSliceMarker
  | badTrailer
  | truncatedBlock
  deriving DecidableEq, Repr

/-- The architectural state of one decoder instance. `overrun` and `LIMIT` (R24) and `STATUS` (R34) are functions of these
fields. -/
structure State where
  /-- MODEL's own: the parameters of this instance, no state but an argument, which no step changes (R10, R45; log 3). -/
  cfg : Cfg
  /-- `BUF`, the borrowed input buffer (R22). -/
  buf : Memory
  /-- `LEN`, the number of bytes of `BUF` (R22). -/
  len : Nat
  /-- MODEL's own: the host has given the first `START`, before which nothing executes (R270; log 27). -/
  started : Bool
  /-- `pos`, the program counter: stream bits consumed (R23). -/
  pos : Nat
  /-- `SEQ` (R26). -/
  seq : Seq
  /-- MODEL's own: the grammar position inside `SEQ`, which the spec's pseudocode holds as its own place (log 4). -/
  slot : Slot
  /-- `ERR` (R27). -/
  err : Err
  /-- `FAIL_POS` (R27). -/
  failPos : Nat
  /-- `FMT` (R28). -/
  fmt : BitVec 2
  /-- `SCALE` (R28). -/
  scale : BitVec 3
  /-- `WIDTH` (R28). -/
  width : Nat
  /-- `HEIGHT` (R28). -/
  height : Nat
  /-- `SLICES` (R28). -/
  slices : Nat
  /-- `MBW` (R28). -/
  mbw : Nat
  /-- `S`, the slice index (R29). -/
  sliceIdx : Nat
  /-- `M`, the macroblock column (R29). -/
  mbIdx : Nat
  /-- `B`, the block index (R29). -/
  blockIdx : Fin 6
  /-- `DESC`, the macroblock descriptor (R30). -/
  desc : BitVec 8
  /-- `COEF`, the coefficient buffer (R31). -/
  coef : Block
  /-- `IDX`, the running scan index (R32). -/
  idx : Nat
  /-- `WS`, the inverse-DCT workspace (R33). -/
  ws : Block
  /-- `SPAT`, the six spatial blocks (R33). -/
  spat : Vector Block 6
  /-- `RASTER`; `none` until `ReadHeader` allocates it (R34, R44). -/
  raster : Option Memory
  /-- `EARLY_EOS` (R34). -/
  earlyEos : Bool
  /-- `DECODE_SECONDS` (R34). -/
  decodeSeconds : NonNegF64
  /-- MODEL's own: how many values of the host's clock have been drawn (log 2). -/
  clockDraws : Nat
  deriving DecidableEq, Repr

/-- The reasons for which a step stops. No state that a call can reach has one. -/
inductive Fault where
  /-- Raised by the raster store when the macroblock's footprint is not inside an allocated raster: an access to
  addresses that do not exist (R59, R190). Safe: the spec's bounds rule excludes it, and so does `State.Inv`. -/
  | rasterBounds
  deriving DecidableEq, Repr

/-- The reasons for which the model gives no meaning. -/
inductive Refusal where
  /-- Raised by `exec` for an instruction without a meaning; no arm raises it. Safe. -/
  | notModelled (mnemonic : String)
  /-- Raised by `hostStart`: a `START` on an instance whose call is still running (R279, D40, I19: refuse). Safe. -/
  | startWhileRunning
  /-- Raised by `hostWriteInput`: the host changes the buffer during a call (R64, R274, D35, I18: refuse). Safe. -/
  | bufferChangedDuringCall
  deriving DecidableEq, Repr

/-- What a meaning answers. -/
abbrev Out := Host.Outcome State Fault Refusal

/-- A block of 64 zeros (R121). -/
def zeroBlock : Block := Vector.replicate 64 0

/-- An instance of configuration `c` before its first `START`: every register at its reset value (R44, R270) and no buffer yet, so that nothing
executes (R270). The registers R44 calls unspecified hold the values of log 5 (DESIGN CHOICE); that the others hold their
values at the start of a call already before it is the model's choice too (DESIGN CHOICE, log 27). -/
def State.resetOf (c : Cfg) : State :=
  { cfg := c
    buf := []
    len := 0
    started := false
    pos := 0
    seq := .readHeader
    slot := .alignPad
    err := .noError
    failPos := 0
    fmt := 0
    scale := 0
    width := 0
    height := 0
    slices := 0
    mbw := 0
    sliceIdx := 0
    mbIdx := 0
    blockIdx := 0
    desc := 0
    coef := zeroBlock
    idx := 1
    ws := zeroBlock
    spat := Vector.replicate 6 zeroBlock
    raster := none
    earlyEos := false
    decodeSeconds := ⟨0, 0⟩
    clockDraws := 0 }

/-- The instance of the reference configuration after reset (log 3). -/
def State.reset : State := State.resetOf Config.ref

end Sys2Proof.Machine
end

