-- ==== Sys2Proof/Machine/Flags.lean ====
section
/-! DEFINITION. The status flags and the encoded control registers (spec 10_state.md R24, R26, R34, R43; 60_exceptions.md
R240). The hardware has no condition codes: no datapath operation sets a flag. -/

namespace Sys2Proof.Machine

open Sys2Proof

/-- `LIMIT = 32 * (LEN div 4)`: the number of leading stream bits all backed by buffer bytes (R24, R53). -/
def State.limit (s : State) : Nat := 32 * (s.len / 4)

/-- `overrun = (pos > LIMIT)` (R24). -/
def State.overrun (s : State) : Bool := decide (s.limit < s.pos)

/-- `DESC[b]`: block `b` has AC coefficients (R30). -/
def State.hasAc (s : State) (b : Fin 6) : Bool := s.desc.getLsbD b.val

/-- `DESC[6]`: two reserved bits follow the descriptor (R30). -/
def State.extension (s : State) : Bool := s.desc.getLsbD 6

/-- The suspect mark of a frame: `ERR = BadTrailer` with `SEQ = Done` (R43). -/
def State.suspect (s : State) : Bool := s.seq == .done && s.err == .badTrailer

/-- A call is running: `START` has been given (R210, R270) and the call has not ended (R229). -/
def State.running (s : State) : Bool :=
  match s.seq with
  | .readHeader => s.started
  | .decodeSlices => s.started
  | .readTrailer => s.started
  | .done => false
  | .failed => false

/-- The 3-bit encoding of `SEQ` (R26). -/
def Seq.code : Seq → BitVec 3
  | .readHeader => 0
  | .decodeSlices => 1
  | .readTrailer => 2
  | .done => 3
  | .failed => 4

/-- The 4-bit encoding of `ERR` under `c`: 0 for `None`, else `ERRCODE[kind]` (R10 P19, R27, R240). -/
def Err.code (c : Cfg) : Err → BitVec 4
  | .noError => 0
  | .truncatedInput => c.errCode.truncatedInput
  | .invalidHeader => c.errCode.invalidHeader
  | .unsupportedMacroblock => c.errCode.unsupportedMacroblock
  | .invalidDescriptor => c.errCode.invalidDescriptor
  | .badSliceMarker => c.errCode.badSliceMarker
  | .badTrailer => c.errCode.badTrailer
  | .truncatedBlock => c.errCode.truncatedBlock

/-- An error kind that ends the call in `Failed` (column "hard or soft" of R240). -/
def Err.hard : Err → Bool
  | .noError => false
  | .truncatedInput => true
  | .invalidHeader => true
  | .unsupportedMacroblock => true
  | .invalidDescriptor => true
  | .badSliceMarker => true
  | .badTrailer => false
  | .truncatedBlock => true

/-- `STATUS`, the pair (`SEQ`, `ERR`) (R34). -/
def State.status (s : State) : Seq × Err := (s.seq, s.err)

/-- `STATUS` as the host reads it: the codes of `SEQ` and `ERR` (R26, R27, R34). -/
def State.statusCode (s : State) : BitVec 3 × BitVec 4 := (s.seq.code, s.err.code s.cfg)

end Sys2Proof.Machine
end

