-- ==== Sys2Proof/Machine/Operands.lean ====
section
/-! DEFINITION. How an element's fields become the values the units work on (spec 30_encoding.md R78, R79, R82;
41_entropy_decoder.md R124, R125; 45_slice_frame_sequencer.md R213, R215). -/

namespace Sys2Proof.Machine

open Sys2Proof

/-- The value of a code of `z ≥ 2` leading zeros: `2^(z-1) + x`, `x` the `z - 1` extra bits (R78, R79, R82). -/
def codeValue (z : Nat) (x : BitVec (z - 1)) : Nat := 2 ^ (z - 1) + x.toNat

/-- `RunDecode(w)`: the code's length and run value, `none` for `Reserved`, as the pseudocode of R124 computes it
from `CLZ8`: the content of `RUNTAB[w]` under `REF` (R39, R80). -/
def runDecode (c : Cfg) (w : BitVec 12) : Option (Nat × Nat) :=
  let z := (c.clz8[(w.extractLsb' 4 8).toNat]'(w.extractLsb' 4 8).isLt).val
  if 7 ≤ z then none
  else if z = 0 then some (1, 0)
  else if z = 1 then some (2, 1)
  else
    let e := z - 1
    let x := (w.toNat >>> (12 - 2 * z)) % 2 ^ e
    some (2 * z, 2 ^ e + x)

/-- `LevelDecode(w)`: the code's length and symbol, `none` for `Reserved`, as the pseudocode of R125 computes it
from `CLZ8`: the content of `LEVTAB[w]` under `REF` (R39, R80). -/
def levelDecode (c : Cfg) (w : BitVec 15) : Option (Nat × LevelSymbol) :=
  let z := (c.clz8[(w.extractLsb' 7 8).toNat]'(w.extractLsb' 7 8).isLt).val
  if 8 ≤ z then none
  else if z = 1 then some (2, .eob)
  else if z = 0 then
    let s := (w.toNat >>> 13) % 2
    some (2, .level (if s = 1 then -1 else 1))
  else
    let e := z - 1
    let x := (w.toNat >>> (15 - 2 * z)) % 2 ^ e
    let s := (w.toNat >>> (14 - 2 * z)) % 2
    let m : Int := 2 ^ e + x
    some (2 * z + 1, .level (if s = 1 then -m else m))

/-- The descriptor of a header with `DESC[7] = 1` and `DESC[6] = ext` (R77). -/
def descOf (ext : Bool) (flags : BitVec 6) : BitVec 8 := (1#1 ++ BitVec.ofBool ext) ++ flags

/-- The descriptor of a header with `DESC[7] = 0` (R77). -/
def descInvalid (low : BitVec 7) : BitVec 8 := 0#1 ++ low

/-- `FORMAT_BASE[fmt]` for `fmt` in 1..3 (R10 P5). Format 0 raises an error before this is read (R212). -/
def formatBase (c : Cfg) (fmt : BitVec 2) : Nat × Nat :=
  if fmt = 1 then c.formatBase[0] else if fmt = 2 then c.formatBase[1] else c.formatBase[2]

/-- `WIDTH = FORMAT_BASE[fmt].w << (scale - 1)` (R82, R213). -/
def widthOf (c : Cfg) (fmt : BitVec 2) (scale : BitVec 3) : Nat := (formatBase c fmt).1 * 2 ^ (scale.toNat - 1)

/-- `HEIGHT = FORMAT_BASE[fmt].h << (scale - 1)` (R82, R213). -/
def heightOf (c : Cfg) (fmt : BitVec 2) (scale : BitVec 3) : Nat := (formatBase c fmt).2 * 2 ^ (scale.toNat - 1)

/-- A dimension within its bound; `none` is no bound (R10 P18). -/
def withinBound (bound : Option Nat) (n : Nat) : Bool :=
  match bound with
  | none => true
  | some b => decide (n ≤ b)

/-- `DimsOK(W, H)` (R215). -/
def dimsOk (c : Cfg) (w h : Nat) : Bool :=
  decide (0 < w) && decide (0 < h) && w % 16 == 0 && h % 16 == 0 && withinBound c.maxWidth w && withinBound c.maxHeight h

end Sys2Proof.Machine
end

