-- ==== Sys2Proof/Machine/Ops.lean ====
section
/-! DEFINITION. The named operations every meaning is made of: byte memory (spec 20_memory.md R50 to R59), the bit cursor
(40_bit_cursor.md R100 to R111), the trap entry and the ends of a call (60_exceptions.md R250; 45_slice_frame_sequencer.md
R219, R222, R223), and the raster store (44_macroblock_csc.md R190). -/

namespace Sys2Proof.Machine

open Sys2Proof

/-! ### Byte memory -/

/-- The byte at address `k`; an unlisted address reads as `d`. -/
def Memory.read (d : Byte) : Memory → Nat → Byte
  | [], _ => d
  | (a, v) :: m, k => if a = k then v else Memory.read d m k

/-- Store `b` at address `k`, keeping addresses rising and no pair that reads as an unlisted address does. -/
def Memory.write (d : Byte) : Memory → Nat → Byte → Memory
  | [], k, b => if b = d then [] else [(k, b)]
  | (a, v) :: m, k, b =>
    if k < a then (if b = d then (a, v) :: m else (k, b) :: (a, v) :: m)
    else if k = a then (if b = d then m else (k, b) :: m)
    else (a, v) :: Memory.write d m k b

/-- The canonical form: addresses strictly rising, no pair equal to what an unlisted address reads as. -/
abbrev Memory.wf (d : Byte) (m : Memory) : Prop :=
  m.Pairwise (fun x y => x.1 < y.1) ∧ ∀ x ∈ m, x.2 ≠ d

/-- Every listed address is below `n`. -/
abbrev Memory.below (n : Nat) (m : Memory) : Prop := ∀ x ∈ m, x.1 < n

/-- The memory that holds these bytes from address `a` on. -/
def Memory.ofBytes (d : Byte) : Nat → List Byte → Memory
  | _, [] => []
  | a, b :: bs => if b = d then Memory.ofBytes d (a + 1) bs else (a, b) :: Memory.ofBytes d (a + 1) bs

/-- The `n` bytes at addresses 0 .. n-1. -/
def Memory.toBytes (d : Byte) (m : Memory) (n : Nat) : List Byte := (List.range n).map fun a => Memory.read d m a

/-! ### The input stream -/

/-- `BUF[a]`, 0 at and beyond `LEN` (R51, R53). -/
def State.bufByte (s : State) (a : Nat) : Byte := if a < s.len then Memory.read 0 s.buf a else 0

/-- `a(k) = 4*(k div 32) + 3 - ((k mod 32) div 8)`: the byte that holds stream bit `k` (R51). -/
def streamByte (k : Nat) : Nat := 4 * (k / 32) + 3 - k % 32 / 8

/-- `sbit(k) = BUF[a(k)][j(k)]`, `j(k) = 7 - (k mod 8)`; 0 where `a(k) >= LEN` (R51, R53). -/
def State.sbit (s : State) (k : Nat) : Bool := (s.bufByte (streamByte k)).getLsbD (7 - k % 8)

/-- The stream bits `pos .. pos + n - 1`. -/
def State.window (s : State) (n : Nat) : Bits := (List.range n).map fun i => s.sbit (s.pos + i)

/-! ### The bit cursor -/

/-- `BC.INIT` (R101). -/
def bcInit (s : State) : State := { s with pos := 0 }

/-- `BC.PEEK(n)`: the sum over `i` in 0 .. n-1 of `sbit(pos + i) * 2^(n-1-i)` (R102). -/
def bcPeek (n : Nat) (s : State) : BitVec n := BitVec.ofNat n (bitsToNat (s.window n))

/-- `BC.SKIP(n)`: `pos <- pos + n` (R103). -/
def bcSkip (n : Nat) (s : State) : State := { s with pos := s.pos + n }

/-- `BC.READ(n)`: peek, then skip (R104). -/
def bcRead (n : Nat) (s : State) : BitVec n × State := (bcPeek n s, bcSkip n s)

/-- `BC.ALIGN()`: skip to the next multiple of 8 (R105). -/
def bcAlign (s : State) : State := bcSkip (padLength s.pos) s

/-! ### Taking an error, and ending a call -/

/-- `raise K` (R250): `ERR <- K`, `FAIL_POS <- pos`, `SEQ <- Failed`; nothing else changes. There is no return from it
(R252): `Failed` is terminal, and recovery is a new call (`hostStart`). -/
def raise (k : Err) (s : State) : State := { s with err := k, failPos := s.pos, seq := .failed }

/-- The soft error (R222, R246): `ERR <- BadTrailer`, `FAIL_POS <- pos`, and the call goes on. -/
def markBadTrailer (s : State) : State := { s with err := .badTrailer, failPos := s.pos }

/-- `SEQ <- Done` (R223). The frame is delivered with the host's measurement of the call, a free value (R226, log 2). -/
def finish (s : State) : State :=
  { s with seq := .done, decodeSeconds := Config.wallClock s.clockDraws, clockDraws := s.clockDraws + 1 }

/-- `SKIPC(n, K)`, and `READC(n, K)` of a field whose value is an operand (R111): advance by `n`, then the truncation
test; the rest of the element runs only where it passes. -/
def skipc (n : Nat) (k : Err) (s : State) (rest : State → Out) : Out :=
  if (bcSkip n s).overrun then .next (raise k (bcSkip n s)) else rest (bcSkip n s)

/-! ### The raster -/

/-- The number of raster bytes, `3 * WIDTH * HEIGHT` (R34). -/
def State.rasterSize (s : State) : Nat := 3 * s.width * s.height

/-- Allocate `RASTER`, every byte `RASTER_FILL` (R58, R216). -/
def allocRaster (s : State) : State := { s with raster := some [] }

/-- The raster byte at an address, where the raster exists and has that address (R58). -/
def State.rasterByte (s : State) (a : Nat) : Option Byte :=
  match s.raster with
  | none => none
  | some m => if a < s.rasterSize then some (Memory.read s.cfg.rasterFill m a) else none

/-- The first byte address of the pixel at column `x`, row `y` of a raster of width `w` (R58, R190). -/
def pixelAddress (w x y : Nat) : Nat := 3 * (y * w + x)

/-- `STORE(X, Yr, R, G, B)`: the three bytes of one pixel (R190). -/
def storePixel (d : Byte) (w x y : Nat) (rgb : Byte × Byte × Byte) (m : Memory) : Memory :=
  let a := pixelAddress w x y
  Memory.write d (Memory.write d (Memory.write d m a rgb.1) (a + 1) rgb.2.1) (a + 2) rgb.2.2

/-! ### Placing a program -/

/-- Stream bit `k` of the input after `bits` is laid over it from stream bit `at_` on. -/
def overlayBit (s : State) (at_ : Nat) (bits : Bits) (k : Nat) : Bool :=
  if at_ ≤ k ∧ k < at_ + bits.length then bitAt bits (k - at_) else s.sbit k

/-- The state whose input holds `bits` at the cursor, and is long enough that no bit of them is past `LIMIT`; the other
stream bits are as before. -/
def placeBits (bits : Bits) (s : State) : State :=
  let n := max s.len (4 * ((s.pos + bits.length + 31) / 32))
  let all : Bits := (List.range (8 * (4 * ((n + 3) / 4)))).map (overlayBit s s.pos bits)
  { s with buf := Memory.ofBytes 0 0 ((packBytes all).take n), len := n }

/-- The sequencer state in which a grammar position occurs (R70, R211), `SEQ` itself for padding during a call. -/
def seqFor (s : State) : Slot → Seq
  | .alignPad => if s.running then s.seq else .readHeader
  | .picHdr => .readHeader
  | .sliceHdr => .decodeSlices
  | .trailer => .readTrailer
  | .mbHdr => .decodeSlices
  | .dc => .decodeSlices
  | .run => .decodeSlices
  | .level => .decodeSlices

/-- The bits placed after a table word: the word is followed by zeros up to the longest element of the table, the 67 bits
of PICHDR (R71). -/
def longestElement : Nat := 67

/-- A table word placed where the next step reads it: its bits at the cursor, then zeros, and the grammar position of its
row, since the stream has no opcode field (R71; log 6, log 7), in a call that `START` has begun. A word that fits no row is
placed as it is. -/
def placeTableWord (nbits w : Nat) (s : State) : State :=
  match rowFor nbits w with
  | some r =>
    { placeBits (r.bits w ++ List.replicate (longestElement - r.length) false) s with
        started := true, seq := seqFor s r.slot, slot := r.slot }
  | none =>
    { placeBits (toBits (BitVec.ofNat nbits w) ++ List.replicate (longestElement - nbits) false) s with started := true }

end Sys2Proof.Machine
end

