-- ==== Sys2Proof/Machine/Csc.lean ====
section
/-! DEFINITION. macroblock_to_raster_with_csc (spec 44_macroblock_csc.md R185 to R191): where the samples of a pixel are,
the colour conversion, and the store of one macroblock. -/

namespace Sys2Proof.Machine

open Sys2Proof

/-- `clamp255(v)` as a byte (R13, R189). -/
def clamp255 (v : Int) : Byte := if v < 0 then 0 else if 255 < v then 255 else BitVec.ofInt 8 v

/-- `CSC(Y, Cb, Cr)`: the three channels R, G, B; the shift by 8 is a floor division by 256 (R13, R188). PRESUMED
(log 1): which coefficient multiplies which term is `REF`. -/
def csc (c : Cfg) (y cb cr : Int) : Byte × Byte × Byte :=
  let cc := y - 16
  let d := cb - 128
  let e := cr - 128
  let k : Int := c.cscRound
  (clamp255 ((298 * cc + 409 * e + k) / 256),
   clamp255 ((298 * cc - 100 * d - 208 * e + k) / 256),
   clamp255 ((298 * cc + 516 * d + k) / 256))

/-- The luma sample of index `i`: entry `i mod 64` of luma block `i div 64` (R185). -/
def lumaSample (s : State) (i : Fin 256) : Int :=
  (s.spat[i.val / 64]'(by omega))[i.val % 64]'(by omega)

/-- The pixel of luma sample `i`: its luma sample and the chroma pair at `CHROMAMAP[i]`, converted (R185, R186, R188). -/
def pixelOf (s : State) (i : Fin 256) : Byte × Byte × Byte :=
  let j := s.cfg.chromamap[i]
  csc s.cfg (lumaSample s i) (s.spat[4])[j] (s.spat[5])[j]

/-- The raster column of luma sample `i` of macroblock `(S, M)`: `16*M + p mod 16`, `p = MBMAP[i]` (R190). -/
def pixelX (s : State) (i : Fin 256) : Nat := 16 * s.mbIdx + (s.cfg.mbmap[i]).val % 16

/-- The raster row of luma sample `i` of macroblock `(S, M)`: `16*S + p div 16` (R190). -/
def pixelY (s : State) (i : Fin 256) : Nat := 16 * s.sliceIdx + (s.cfg.mbmap[i]).val / 16

/-- The footprint of macroblock `(S, M)` lies inside the raster (R59, R190). -/
def footprintInside (s : State) : Bool :=
  decide (16 * (s.mbIdx + 1) ≤ s.width) && decide (16 * (s.sliceIdx + 1) ≤ s.height)

/-- Convert and store the pixel of luma sample `i` (R190). -/
def storeSample (s : State) (m : Memory) (i : Fin 256) : Memory :=
  storePixel s.cfg.rasterFill s.width (pixelX s i) (pixelY s i) (pixelOf s i) m

/-- Convert and store the 256 pixels of macroblock `(S, M)` (R180, R185 to R190); no state where the raster does not
exist or the footprint is not inside it. -/
def storeMacroblock (s : State) : Option State :=
  match s.raster with
  | none => none
  | some m =>
    if footprintInside s then some { s with raster := some ((List.finRange 256).foldl (storeSample s) m) } else none

end Sys2Proof.Machine
end

