-- ==== Sys2Proof/Machine/Dequantizer.lean ====
section
/-! DEFINITION. fixed_point_dequantizer (spec 42_dequantizer.md R150 to R156). -/

namespace Sys2Proof.Machine

open Sys2Proof

/-- "Created fresh": `COEF[p] <- 0` for all `p` (R121). -/
def clearCoef (s : State) : State := { s with coef := zeroBlock }

/-- `DEQ.DC(dc)`: `COEF[0] <- dc * IQUANT[0]` (R151). -/
def deqDc (dc : BitVec 10) (s : State) : State :=
  { s with coef := s.coef.set 0 ((dc.toNat : Int) * (s.cfg.iquant[0] : Int)) }

/-- `DEQ.AC(idx, level)` for a scan index in 0..63: with `p = ZIGZAG[idx]`, `COEF[p] <- level * IQUANT[p]` (R152). -/
def deqAc (idx : Fin 64) (level : Int) (s : State) : State :=
  let p := s.cfg.zigzag[idx]
  { s with coef := s.coef.set p.val (level * (s.cfg.iquant[p] : Int)) p.isLt }

end Sys2Proof.Machine
end

