-- ==== Sys2Proof/Machine/InverseDct.lean ====
section
/-! DEFINITION. inverse_dct_2d (spec 43_inverse_dct.md R160 to R171): the 8-point kernel, the two passes, and the
operation `IDCT(b)`. The fast path (R167) is not architectural and is not modelled. -/

namespace Sys2Proof.Machine

open Sys2Proof

/-- Eight integers: a column or a row of a block. -/
abbrev Lane := Vector Int 8

/-- The 1-D kernel `K8` (R163), with `<< 13` as a multiplication by `2^CONST_BITS`. PRESUMED (log 1): the butterfly is
`REF`. -/
def k8 (c : Cfg) (x : Lane) : Lane :=
  let k := c.dct
  let scale : Int := 2 ^ c.constBits
  -- even part
  let e1 := (x[2] + x[6]) * k.f0541
  let t2 := e1 - x[6] * k.f1847
  let t3 := e1 + x[2] * k.f0765
  let t0 := (x[0] + x[4]) * scale
  let t1 := (x[0] - x[4]) * scale
  let t10 := t0 + t3
  let t13 := t0 - t3
  let t11 := t1 + t2
  let t12 := t1 - t2
  -- odd part
  let z1 := x[7] + x[1]
  let z2 := x[5] + x[3]
  let z3 := x[7] + x[3]
  let z4 := x[5] + x[1]
  let z5 := (z3 + z4) * k.f1175
  let v1 := -(z1 * k.f0899)
  let v2 := -(z2 * k.f2562)
  let v3 := -(z3 * k.f1961) + z5
  let v4 := -(z4 * k.f0390) + z5
  let u0 := x[7] * k.f0298 + v1 + v3
  let u1 := x[5] * k.f2053 + v2 + v4
  let u2 := x[3] * k.f3072 + v2 + v3
  let u3 := x[1] * k.f1501 + v1 + v4
  #v[t10 + u3, t11 + u2, t12 + u1, t13 + u0, t13 - u0, t12 - u1, t11 - u2, t10 - u3]

/-- `DESCALE(v, n) = (v + 2^(n-1)) >> n`, the shift a floor division by `2^n` (R13, R166). -/
def descale (v : Int) (n : Nat) : Int := (v + 2 ^ (n - 1)) / 2 ^ n

/-- Column `c` of a block, top to bottom. -/
def column (b : Block) (c : Fin 8) : Lane := Vector.ofFn fun r : Fin 8 => b[8 * r.val + c.val]

/-- Row `r` of a block, left to right. -/
def row (b : Block) (r : Fin 8) : Lane := Vector.ofFn fun c : Fin 8 => b[8 * r.val + c.val]

/-- The row of a raster index (R16). -/
def rowOf (i : Fin 64) : Fin 8 := ⟨i.val / 8, by omega⟩

/-- The column of a raster index (R16). -/
def colOf (i : Fin 64) : Fin 8 := ⟨i.val % 8, by omega⟩

/-- Pass 1: the eight columns, descaled by `CONST_BITS - PASS1_BITS` (R164). Irreducible, so that comparing two states does not run the transform. -/
@[irreducible] def pass1 (c : Cfg) (b : Block) : Block :=
  let cols : Vector Lane 8 := Vector.ofFn fun j => k8 c (column b j)
  Vector.ofFn fun i => descale (cols[colOf i])[rowOf i] (c.constBits - c.pass1Bits)

/-- Pass 2: the eight rows, descaled by `CONST_BITS + PASS1_BITS + 3` (R165). Irreducible as `pass1` is. -/
@[irreducible] def pass2 (c : Cfg) (w : Block) : Block :=
  let rows : Vector Lane 8 := Vector.ofFn fun j => k8 c (row w j)
  Vector.ofFn fun i => descale (rows[rowOf i])[colOf i] (c.constBits + c.pass1Bits + 3)

/-- `IDCT(b)`: pass 1 from `COEF` to `WS`, pass 2 from `WS` to `SPAT[b]` (R160). -/
def idct (b : Fin 6) (s : State) : State :=
  let w := pass1 s.cfg s.coef
  { s with ws := w, spat := s.spat.set b.val (pass2 s.cfg w) b.isLt }

end Sys2Proof.Machine
end

