-- ==== Sys2Proof/Machine/Sequencer.lean ====
section
/-! DEFINITION. The sequencer's moves from one grammar position to the next (spec 30_encoding.md R70;
45_slice_frame_sequencer.md R211, R216, R217, R221; 44_macroblock_csc.md R184), and the operations that several elements
of one family share. -/

namespace Sys2Proof.Machine

open Sys2Proof

/-! ### Between elements -/

/-- After the padding comes the element of the sequencer state: the picture header, a slice marker or the trailer (R70). -/
def afterAlign (s : State) : State :=
  match s.seq with
  | .readHeader => { s with slot := .picHdr }
  | .decodeSlices => { s with slot := .sliceHdr }
  | .readTrailer => { s with slot := .trailer }
  | .done => s
  | .failed => s

/-- The end of `ReadHeader` (R216): `SLICES`, `MBW`, the raster, `SEQ <- DecodeSlices`, and the entry of the slice loop
at slice 0, which has no marker (R217). -/
def enterSlices (s : State) : State :=
  { allocRaster s with
      slices := s.height / 16, mbw := s.width / 16, seq := .decodeSlices, sliceIdx := 0, mbIdx := 0, slot := .mbHdr }

/-- The entry of the macroblock loop of a slice (R221). -/
def enterSlice (s : State) : State := { s with mbIdx := 0, slot := .mbHdr }

/-- The entry of the block loop of a macroblock (R184). -/
def enterBlocks (s : State) : State := { s with blockIdx := 0, slot := .dc }

/-- The entry of the AC loop (R123). -/
def enterAc (s : State) : State := { s with idx := 1, slot := .run }

/-- After a macroblock: the next one of the slice, or the next slice, or the trailer (R217, R221). -/
def nextMacroblock (s : State) : State :=
  if s.mbIdx + 1 < s.mbw then { s with mbIdx := s.mbIdx + 1, slot := .mbHdr }
  else if s.sliceIdx + 1 < s.slices then { s with sliceIdx := s.sliceIdx + 1, slot := .alignPad }
  else { s with seq := .readTrailer, slot := .alignPad }

/-- The end of a macroblock: all its pixels are stored (R180), then the next macroblock. -/
def endMacroblock (s : State) : Out :=
  match storeMacroblock s with
  | none => .fault .rasterBounds
  | some t => .next (nextMacroblock t)

/-- The end of a block: `IDCT(B)`, then block `B + 1`, or the end of the macroblock after block 5 (R184). -/
def endBlock (s : State) : Out :=
  let t := idct s.blockIdx s
  if h : s.blockIdx.val < 5 then .next { t with blockIdx := ⟨s.blockIdx.val + 1, by omega⟩, slot := .dc }
  else endMacroblock t

/-! ### Shared by the elements of a family -/

/-- How many bits a first-class symbol of run value `run` takes: the `len` of `RUNTAB` at the window at the cursor (R39, R124),
where that window is one of the symbol, as it is in every step; else the length of the symbol's code (log 25). -/
def runCodeLength (run : Nat) (s : State) : Nat :=
  match runtab s.cfg (bcPeek 12 s) with
  | some (len, r) => if r = run then len else ((runCodeOf s.cfg.runTab run).getD []).length
  | none => ((runCodeOf s.cfg.runTab run).getD []).length

/-- How many bits a second-class symbol takes: the `len` of `LEVTAB` at the window at the cursor, as for a run (R39, R125,
R126). -/
def levelCodeLength (symbol : LevelSymbol) (s : State) : Nat :=
  match levtab s.cfg (bcPeek 15 s) with
  | some (len, v) => if v = symbol then len else ((levelCodeOf s.cfg.levTab symbol).getD []).length
  | none => ((levelCodeOf s.cfg.levTab symbol).getD []).length

/-- A first-class symbol of run value `run`: its code is consumed with the truncation test, then `IDX <- IDX + run` (R120,
R124, R130). -/
def runSymbol (run : Nat) (s : State) : Out :=
  skipc (runCodeLength run s) .truncatedBlock s fun t => .next { t with idx := t.idx + run, slot := .level }

/-- A second-class symbol that is a level, of sign bit `sg` and magnitude `m`: its code is consumed with the truncation
test; at `IDX > 63` the block fails; else the coefficient is placed and `IDX <- IDX + 1` (R120, R127, R128, R130). -/
def levelSymbol (sg : BitVec 1) (m : Nat) (s : State) : Out :=
  skipc (levelCodeLength (.level (withSign sg m)) s) .truncatedBlock s fun t =>
    if h : t.idx < 64 then .next { deqAc ⟨t.idx, h⟩ (withSign sg m) t with idx := t.idx + 1, slot := .run }
    else .next (raise .truncatedBlock t)

/-- The descriptor part of a macroblock header whose bit 7 is set, after the coded flag (R182). -/
def acceptDesc (d : BitVec 8) (s : State) : State := { s with desc := d }

end Sys2Proof.Machine
end

