-- ==== Sys2Proof/Machine/BlockData.lean ====
section
/-! DEFINITION. The meanings of the block data elements: DC, the run codes, the level codes and the end of block (spec
41_entropy_decoder.md R120 to R130). -/

namespace Sys2Proof.Machine

open Sys2Proof

/-- DC (R121, R122, R123): the block is cleared, the 10 bits are read, `DEQ.DC`; then the AC loop where `DESC[B]` is set,
else the end of the block. -/
def execDc (value : BitVec 10) (s : State) : Out :=
  skipc 10 .truncatedBlock (clearCoef s) fun s =>
  let s := deqDc value s
  if s.hasAc s.blockIdx then .next (enterAc s) else endBlock s

/-- RUN.0 (R124): run 0. -/
def execRun0 (s : State) : Out := runSymbol 0 s

/-- RUN.1 (R124): run 1. -/
def execRun1 (s : State) : Out := runSymbol 1 s

/-- RUN.2 (R124): run `2 + x`. -/
def execRun2 (x : BitVec 1) (s : State) : Out := runSymbol (codeValue 2 x) s

/-- RUN.3 (R124): run `4 + x`. -/
def execRun3 (x : BitVec 2) (s : State) : Out := runSymbol (codeValue 3 x) s

/-- RUN.4 (R124): run `8 + x`. -/
def execRun4 (x : BitVec 3) (s : State) : Out := runSymbol (codeValue 4 x) s

/-- RUN.5 (R124): run `16 + x`. -/
def execRun5 (x : BitVec 4) (s : State) : Out := runSymbol (codeValue 5 x) s

/-- RUN.6 (R124): run `32 + x`. -/
def execRun6 (x : BitVec 5) (s : State) : Out := runSymbol (codeValue 6 x) s

/-- RUN.RESERVED (R129): `TruncatedBlock`, the pattern not consumed. -/
def execRunReserved (s : State) : Out := .next (raise .truncatedBlock s)

/-- LEVEL.0 (R125): magnitude 1. -/
def execLevel0 (sg : BitVec 1) (s : State) : Out := levelSymbol sg 1 s

/-- LEVEL.2 (R125): magnitude `2 + x`. -/
def execLevel2 (x : BitVec 1) (sg : BitVec 1) (s : State) : Out := levelSymbol sg (codeValue 2 x) s

/-- LEVEL.3 (R125): magnitude `4 + x`. -/
def execLevel3 (x : BitVec 2) (sg : BitVec 1) (s : State) : Out := levelSymbol sg (codeValue 3 x) s

/-- LEVEL.4 (R125): magnitude `8 + x`. -/
def execLevel4 (x : BitVec 3) (sg : BitVec 1) (s : State) : Out := levelSymbol sg (codeValue 4 x) s

/-- LEVEL.5 (R125): magnitude `16 + x`. -/
def execLevel5 (x : BitVec 4) (sg : BitVec 1) (s : State) : Out := levelSymbol sg (codeValue 5 x) s

/-- LEVEL.6 (R125): magnitude `32 + x`. -/
def execLevel6 (x : BitVec 5) (sg : BitVec 1) (s : State) : Out := levelSymbol sg (codeValue 6 x) s

/-- LEVEL.7 (R125): magnitude `64 + x`. -/
def execLevel7 (x : BitVec 6) (sg : BitVec 1) (s : State) : Out := levelSymbol sg (codeValue 7 x) s

/-- EOB (R126): its code is consumed, legal at any `IDX`; the block ends with `COEF` as it stands. -/
def execEob (s : State) : Out := skipc (levelCodeLength .eob s) .truncatedBlock s endBlock

/-- LEVEL.RESERVED (R129): `TruncatedBlock`, the pattern not consumed. -/
def execLevelReserved (s : State) : Out := .next (raise .truncatedBlock s)

end Sys2Proof.Machine
end

