-- ==== Sys2Proof/Machine/Header.lean ====
section
/-! DEFINITION. The meanings of ALIGNPAD and PICHDR (spec 40_bit_cursor.md R105; 45_slice_frame_sequencer.md R212 to
R216). -/

namespace Sys2Proof.Machine

open Sys2Proof

/-- ALIGNPAD (R76, R105): `BC.ALIGN`; the bits are not examined and no truncation test follows. -/
def execAlignPad (_pad : Bits) (s : State) : Out := .next (afterAlign (bcAlign s))

/-- PICHDR (R212 to R216): each field is read with the truncation test and validated in stream order; the dimensions are
validated after the discard. -/
def execPicHdr (psc : Marker) (fmt : BitVec 2) (scale : BitVec 3) (_discarded : Bits) (s : State) : Out :=
  skipc 22 .truncatedInput s fun s =>
  if psc ≠ s.cfg.psc then .next (raise .invalidHeader s) else
  skipc 2 .truncatedInput s fun s =>
  let s := { s with fmt := fmt }
  if fmt = 0 then .next (raise .invalidHeader s) else
  skipc 3 .truncatedInput s fun s =>
  let s := { s with scale := scale }
  if scale = 0 then .next (raise .invalidHeader s) else
  let s := { s with width := widthOf s.cfg fmt scale, height := heightOf s.cfg fmt scale }
  skipc s.cfg.hdrDiscardBits .truncatedInput s fun s =>
  if !dimsOk s.cfg s.width s.height then .next (raise .invalidHeader s) else
  .next (enterSlices s)

end Sys2Proof.Machine
end

