-- ==== Sys2Proof/Machine/Macroblock.lean ====
section
/-! DEFINITION. The meanings of the macroblock headers (spec 44_macroblock_csc.md R181 to R184): the coded flag is tested
before the descriptor is read, and bit 7 of the descriptor before the reserved bits are. -/

namespace Sys2Proof.Machine

open Sys2Proof

/-- MBHDR.C (R181): `UnsupportedMacroblock`; nothing further is read. -/
def execMbHdrC (s : State) : Out :=
  skipc 1 .truncatedInput s fun s => .next (raise .unsupportedMacroblock s)

/-- MBHDR (R181, R182, R184): coded flag 0, descriptor with bit 7 set and bit 6 clear, then the block loop. -/
def execMbHdr (flags : BitVec 6) (s : State) : Out :=
  skipc 1 .truncatedInput s fun s =>
  skipc 8 .truncatedInput s fun s => .next (enterBlocks (acceptDesc (descOf false flags) s))

/-- MBHDR.R (R181 to R184): as MBHDR with bit 6 set, and two reserved bits read and discarded. -/
def execMbHdrR (flags : BitVec 6) (_rsv : BitVec 2) (s : State) : Out :=
  skipc 1 .truncatedInput s fun s =>
  skipc 8 .truncatedInput s fun s =>
  skipc 2 .truncatedInput (acceptDesc (descOf true flags) s) fun s => .next (enterBlocks s)

/-- MBHDR.INVALID (R182): the descriptor is read, its bit 7 is clear: `InvalidDescriptor`. -/
def execMbHdrInvalid (low : BitVec 7) (s : State) : Out :=
  skipc 1 .truncatedInput s fun s =>
  skipc 8 .truncatedInput s fun s => .next (raise .invalidDescriptor (acceptDesc (descInvalid low) s))

end Sys2Proof.Machine
end

