-- ==== Sys2Proof/Machine/Markers.lean ====
section
/-! DEFINITION. The meanings of the 22-bit markers in slice and trailer position: GOBHDR, EOSMARK, BADMARK, TRAILER (spec
45_slice_frame_sequencer.md R218 to R223). -/

namespace Sys2Proof.Machine

open Sys2Proof

/-- GOBHDR (R218, R220): the marker, then the discarded bits, then the macroblocks of the slice. The slice number in the
marker is compared with nothing. -/
def execGobHdr (_marker : Marker) (_discarded : Bits) (s : State) : Out :=
  skipc 22 .truncatedInput s fun s =>
  skipc s.cfg.gobExtraBits .truncatedInput s fun s => .next (enterSlice s)

/-- EOSMARK (R219): `EARLY_EOS <- 1`, and the call is `Done` without a trailer. -/
def execEosMark (s : State) : Out :=
  skipc 22 .truncatedInput s fun s => .next (finish { s with earlyEos := true })

/-- TRAILER (R222): a mismatch is the soft error `BadTrailer`; the call is `Done` either way. -/
def execTrailer (marker : Marker) (s : State) : Out :=
  skipc 22 .truncatedInput s fun s =>
  .next (finish (if marker ≠ s.cfg.eop then markBadTrailer s else s))

/-- BADMARK (R218, R245): `BadSliceMarker`. -/
def execBadMark (_marker : Marker) (s : State) : Out :=
  skipc 22 .truncatedInput s fun s => .next (raise .badSliceMarker s)

end Sys2Proof.Machine
end

