-- ==== Sys2Proof/Machine/Dispatch.lean ====
section
/-! DEFINITION. One arm per row of spec/opcode_table.json. -/

namespace Sys2Proof.Machine
open Sys2Proof

def exec (i : Instr) (s : State) : Host.Outcome State Fault Refusal :=
  match i with
  | .alignPad pad => Sys2Proof.Machine.execAlignPad pad s
  | .picHdr psc fmt scale discarded => Sys2Proof.Machine.execPicHdr psc fmt scale discarded s
  | .gobHdr marker discarded => Sys2Proof.Machine.execGobHdr marker discarded s
  | .eosMark => Sys2Proof.Machine.execEosMark s
  | .trailer marker => Sys2Proof.Machine.execTrailer marker s
  | .badMark marker => Sys2Proof.Machine.execBadMark marker s
  | .mbHdrC => Sys2Proof.Machine.execMbHdrC s
  | .mbHdr flags => Sys2Proof.Machine.execMbHdr flags s
  | .mbHdrR flags rsv => Sys2Proof.Machine.execMbHdrR flags rsv s
  | .mbHdrInvalid low => Sys2Proof.Machine.execMbHdrInvalid low s
  | .dc value => Sys2Proof.Machine.execDc value s
  | .run0 => Sys2Proof.Machine.execRun0 s
  | .run1 => Sys2Proof.Machine.execRun1 s
  | .run2 x => Sys2Proof.Machine.execRun2 x s
  | .run3 x => Sys2Proof.Machine.execRun3 x s
  | .run4 x => Sys2Proof.Machine.execRun4 x s
  | .run5 x => Sys2Proof.Machine.execRun5 x s
  | .run6 x => Sys2Proof.Machine.execRun6 x s
  | .runReserved => Sys2Proof.Machine.execRunReserved s
  | .level0 sg => Sys2Proof.Machine.execLevel0 sg s
  | .level2 x sg => Sys2Proof.Machine.execLevel2 x sg s
  | .level3 x sg => Sys2Proof.Machine.execLevel3 x sg s
  | .level4 x sg => Sys2Proof.Machine.execLevel4 x sg s
  | .level5 x sg => Sys2Proof.Machine.execLevel5 x sg s
  | .level6 x sg => Sys2Proof.Machine.execLevel6 x sg s
  | .level7 x sg => Sys2Proof.Machine.execLevel7 x sg s
  | .eob => Sys2Proof.Machine.execEob s
  | .levelReserved => Sys2Proof.Machine.execLevelReserved s

end Sys2Proof.Machine
end

