-- ==== Sys2Proof/Machine/Fetch.lean ====
section
/-! DEFINITION. Fetching: the window of stream bits at the cursor, read by the decoder at the current grammar position
(spec 30_encoding.md R71, R83; 41_entropy_decoder.md R120). Fetching moves nothing: a peek leaves `pos` and `overrun` as
they are (40_bit_cursor.md R102). -/

namespace Sys2Proof.Machine

open Sys2Proof

/-- The bits the decoder looks at. -/
def fetchWindow (s : State) : Bits := s.window (windowLength s.cfg s.pos s.slot)

/-- The element at the cursor. -/
def fetch (s : State) : Instr := decode s.cfg s.slot (fetchWindow s)

end Sys2Proof.Machine
end

