-- ==== Sys2Proof/Machine/Step.lean ====
section
/-! DEFINITION. One step: one syntax element (spec 00_scope.md R2, R8). A call that has ended stays as it is: `Done` and
`Failed` are terminal and nothing further is read or written (45_slice_frame_sequencer.md R211, R224, R229; log 8). Nothing
executes before the first `START` either (70_reset_and_hazards.md R270; log 27). -/

namespace Sys2Proof.Machine

open Sys2Proof

/-- The step relation: a running call runs the element at its cursor; before the first `START` and after a call nothing
happens. -/
def step (s : State) : Host.Outcome State Fault Refusal :=
  if s.running then exec (fetch s) s else .next s

/-- `s` with a word of the opcode table stored where the next step fetches, and the grammar position in which that row
occurs selected, since the stream has no opcode field (R71; log 7). -/
def State.withFetchWord (s : State) (nbits w : Nat) : State := placeTableWord nbits w s

end Sys2Proof.Machine
end

