-- ==== Sys2Proof/Machine/Call.lean ====
section
/-! DEFINITION. The host's side of a call: `START`, the buffer duty, and the result record (spec
45_slice_frame_sequencer.md R210, R225, R227; 70_reset_and_hazards.md R270, R274, R279). -/

namespace Sys2Proof.Machine

open Sys2Proof

/-- The state at the start of a call on `bytes`, for an instance of configuration `c` whose host has drawn `draws`
clock values: the call has begun and every other field is at its reset value, so nothing is carried over from an earlier call (R21, R210,
R270). -/
def atStart (c : Cfg) (draws : Nat) (bytes : List Byte) : State :=
  bcInit { State.resetOf c with
    buf := Memory.ofBytes 0 0 bytes, len := bytes.length, started := true, clockDraws := draws }

/-- The machine of configuration `c` (R10): `Sys2Proof.core` is the one of `REF` (log 3). -/
def machineOf (c : Cfg) : Host.Core :=
  { State := State, Fault := Fault, Refusal := Refusal, step := step, reset := State.resetOf c }

/-- `START` (R210): a new call, the only way to begin execution. It succeeds on a fresh instance (R270) and after every call
that has ended (R229, R252); only a second `START` on an instance whose call is still running has no meaning (R279, D40,
I19). -/
def hostStart (bytes : List Byte) (s : State) : Out :=
  if s.running then .refused .startWhileRunning else .next (atStart s.cfg s.clockDraws bytes)

/-- The host writes a byte of the buffer. During a call that has no meaning (R64, R274); between calls the buffer is the
host's. -/
def hostWriteInput (a : Nat) (b : Byte) (s : State) : Out :=
  if s.running then .refused .bufferChangedDuringCall
  else if a < s.len then .next { s with buf := Memory.write 0 s.buf a b } else .next s

/-- The result of a call (R225). -/
inductive CallResult where
  /-- `Ok(WIDTH, HEIGHT, RASTER, DECODE_SECONDS)` with flag `EARLY_EOS` -/
  | ok (width height : Nat) (raster : List Byte) (seconds : NonNegF64) (earlyEos : Bool)
  /-- `Suspect(WIDTH, HEIGHT, RASTER, DECODE_SECONDS, BadTrailer)` -/
  | suspect (width height : Nat) (raster : List Byte) (seconds : NonNegF64)
  /-- `Error(K, FAIL_POS)`: no width, no height, no raster -/
  | error (kind : Err) (failPos : Nat)
  deriving DecidableEq, Repr

/-- The raster handed to the host, in address order (R58). -/
def rasterBytes (s : State) : List Byte :=
  match s.raster with
  | none => []
  | some m => Memory.toBytes s.cfg.rasterFill m s.rasterSize

/-- What the host receives; nothing while the call runs (R61, R225, R251). -/
def callResult (s : State) : Option CallResult :=
  match s.seq with
  | .done =>
    if s.suspect then some (.suspect s.width s.height (rasterBytes s) s.decodeSeconds)
    else some (.ok s.width s.height (rasterBytes s) s.decodeSeconds s.earlyEos)
  | .failed => some (.error s.err s.failPos)
  | .readHeader => none
  | .decodeSlices => none
  | .readTrailer => none

end Sys2Proof.Machine
end

