-- ==== Sys2Proof/Machine/Pseudocode.lean ====
section
/-! DEFINITION. The spec's own pseudocode of a whole call, as one function: `DECODE` (spec 45_slice_frame_sequencer.md
R211), `MB.DECODE` (44_macroblock_csc.md R180) and `BLOCK.DECODE` (41_entropy_decoder.md R120). The step machine does not
use it: it is what a statement compares the step machine with. `Except.error t` is a call that has ended in state `t`.
The grammar position `slot` is the step machine's own and stands still here. -/

namespace Sys2Proof.Machine

open Sys2Proof

/-- `SKIPC(n, K)` (R111). -/
def skipC (n : Nat) (k : Err) (s : State) : Except State State :=
  let t := bcSkip n s
  if t.overrun then .error (raise k t) else .ok t

/-- `READC(n, K)` (R111). -/
def readC (n : Nat) (k : Err) (s : State) : Except State (BitVec n × State) :=
  let r := bcRead n s
  if r.2.overrun then .error (raise k r.2) else .ok r

/-- The AC loop of `BLOCK.DECODE` (R120), with at most as many iterations as the first argument; R120 shows that 64 are
enough. `RunDecode` and `LevelDecode` are the entries of the tables `RUNTAB` and `LEVTAB` (R39). -/
def acLoop : Nat → State → Except State State
  | 0, s => .ok s
  | f + 1, s =>
    match runtab s.cfg (bcPeek 12 s) with
    | none => .error (raise .truncatedBlock s)
    | some (runLen, run) =>
      match skipC runLen .truncatedBlock s with
      | .error t => .error t
      | .ok s1 =>
        let s2 := { s1 with idx := s1.idx + run }
        match levtab s2.cfg (bcPeek 15 s2) with
        | none => .error (raise .truncatedBlock s2)
        | some (levelLen, symbol) =>
          match skipC levelLen .truncatedBlock s2 with
          | .error t => .error t
          | .ok s3 =>
            match symbol with
            | .eob => .ok s3
            | .level v =>
              if h : s3.idx < 64 then acLoop f { deqAc ⟨s3.idx, h⟩ v s3 with idx := s3.idx + 1 }
              else .error (raise .truncatedBlock s3)

/-- `BLOCK.DECODE(has_ac)` (R120). -/
def blockDecode (hasAc : Bool) (s : State) : Except State State :=
  match readC 10 .truncatedBlock (clearCoef s) with
  | .error t => .error t
  | .ok (dc, s1) =>
    let s2 := deqDc dc s1
    if hasAc then acLoop 64 { s2 with idx := 1 } else .ok s2

/-- The block loop of `MB.DECODE` over the given blocks (R180, R184). -/
def blockLoop : List (Fin 6) → State → Except State State
  | [], s => .ok s
  | b :: bs, s =>
    let s1 := { s with blockIdx := b }
    match blockDecode (s1.hasAc b) s1 with
    | .error t => .error t
    | .ok s2 => blockLoop bs (idct b s2)

/-- The header of `MB.DECODE` (R180 to R183). -/
def mbHeader (s : State) : Except State State :=
  match readC 1 .truncatedInput s with
  | .error t => .error t
  | .ok (mbc, s1) =>
    if mbc = 1 then .error (raise .unsupportedMacroblock s1)
    else
      match readC 8 .truncatedInput s1 with
      | .error t => .error t
      | .ok (d, s2) =>
        let s3 := { s2 with desc := d }
        if d.getLsbD 7 = false then .error (raise .invalidDescriptor s3)
        else if d.getLsbD 6 then skipC 2 .truncatedInput s3 else .ok s3

/-- `MB.DECODE(S, M)` (R180). The store is always inside the raster (R190). -/
def mbDecode (s : State) : Except State State :=
  match mbHeader s with
  | .error t => .error t
  | .ok s1 =>
    match blockLoop [0, 1, 2, 3, 4, 5] s1 with
    | .error t => .error t
    | .ok s2 => .ok ((storeMacroblock s2).getD s2)

/-- The macroblock loop over the given columns (R211, R221). -/
def mbLoop : List Nat → State → Except State State
  | [], s => .ok s
  | m :: ms, s =>
    match mbDecode { s with mbIdx := m } with
    | .error t => .error t
    | .ok s1 => mbLoop ms s1

/-- The marker of a slice of index > 0 (R211, R218 to R220). -/
def sliceHeader (s : State) : Except State State :=
  match readC 22 .truncatedInput (bcAlign s) with
  | .error t => .error t
  | .ok (m, s1) =>
    if m = s1.cfg.eos then .error (finish { s1 with earlyEos := true })
    else if (m &&& s1.cfg.gobMask) ≠ s1.cfg.gobMatch then .error (raise .badSliceMarker s1)
    else skipC s1.cfg.gobExtraBits .truncatedInput s1

/-- The slice loop over the given slices (R211, R217). -/
def sliceLoop : List Nat → State → Except State State
  | [], s => .ok s
  | i :: is, s =>
    let s1 := { s with sliceIdx := i }
    match (if 0 < i then sliceHeader s1 else .ok s1) with
    | .error t => .error t
    | .ok s2 =>
      match mbLoop (List.range s2.mbw) s2 with
      | .error t => .error t
      | .ok s3 => sliceLoop is s3

/-- `ReadHeader` (R211 to R216). -/
def readHeader (s : State) : Except State State :=
  match readC 22 .truncatedInput (bcAlign s) with
  | .error t => .error t
  | .ok (psc, s1) =>
    if psc ≠ s1.cfg.psc then .error (raise .invalidHeader s1)
    else
      match readC 2 .truncatedInput s1 with
      | .error t => .error t
      | .ok (fmt, s2) =>
        let s3 := { s2 with fmt := fmt }
        if fmt = 0 then .error (raise .invalidHeader s3)
        else
          match readC 3 .truncatedInput s3 with
          | .error t => .error t
          | .ok (scale, s4) =>
            let s5 := { s4 with scale := scale }
            if scale = 0 then .error (raise .invalidHeader s5)
            else
              let s6 := { s5 with width := widthOf s5.cfg fmt scale, height := heightOf s5.cfg fmt scale }
              match skipC s6.cfg.hdrDiscardBits .truncatedInput s6 with
              | .error t => .error t
              | .ok s7 =>
                if dimsOk s7.cfg s7.width s7.height = false then .error (raise .invalidHeader s7)
                else .ok { allocRaster s7 with
                  slices := s7.height / 16, mbw := s7.width / 16, seq := .decodeSlices }

/-- `ReadTrailer` (R211, R222). -/
def readTrailer (s : State) : Except State State :=
  match readC 22 .truncatedInput (bcAlign { s with seq := .readTrailer }) with
  | .error t => .error t
  | .ok (m, s1) => .ok (finish (if m ≠ s1.cfg.eop then markBadTrailer s1 else s1))

/-- `DECODE(BUF, LEN)` from the state `START` leaves (R211): the state in which the call ends. -/
def decodeCall (s : State) : State :=
  let body : Except State State :=
    match readHeader s with
    | .error t => .error t
    | .ok s1 =>
      match sliceLoop (List.range s1.slices) s1 with
      | .error t => .error t
      | .ok s2 => readTrailer s2
  match body with
  | .error t => t
  | .ok t => t

end Sys2Proof.Machine
end

