-- ==== Sys2Proof/Safety.lean ====
section
/-! DEFINITION. What a safe run is, in the terms the claims use: the control invariant `State.Inv`, the datapath
invariant `State.DataInv`, the measure that bounds a call, and the relations that compare two runs. -/

namespace Sys2Proof

/-- The first-class codes with their length and run value, as the table of R78 lists them. -/
def Instr.runOf : Instr → Option (Nat × Nat)
  | .run0 => some (1, 0)
  | .run1 => some (2, 1)
  | .run2 x => some (4, 2 + x.toNat)
  | .run3 x => some (6, 4 + x.toNat)
  | .run4 x => some (8, 8 + x.toNat)
  | .run5 x => some (10, 16 + x.toNat)
  | .run6 x => some (12, 32 + x.toNat)
  | _ => none

/-- The second-class codes that are levels, with their length and value, as the table of R79 lists them. -/
def Instr.levelOf : Instr → Option (Nat × Int)
  | .level0 sg => some (2, withSign sg 1)
  | .level2 x sg => some (5, withSign sg (2 + x.toNat))
  | .level3 x sg => some (7, withSign sg (4 + x.toNat))
  | .level4 x sg => some (9, withSign sg (8 + x.toNat))
  | .level5 x sg => some (11, withSign sg (16 + x.toNat))
  | .level6 x sg => some (13, withSign sg (32 + x.toNat))
  | .level7 x sg => some (15, withSign sg (64 + x.toNat))
  | _ => none

end Sys2Proof

namespace Sys2Proof.Machine

open Sys2Proof

/-- The input buffer is in canonical form and holds only addresses below `LEN` (R22, R59). -/
abbrev State.InputInv (s : State) : Prop := Memory.wf 0 s.buf ∧ Memory.below s.len s.buf

/-- An allocated raster is in canonical form and holds only addresses below `3 * WIDTH * HEIGHT` (R34, R59). -/
abbrev State.RasterInv (s : State) : Prop :=
  ∀ m ∈ s.raster, Memory.wf s.cfg.rasterFill m ∧ Memory.below s.rasterSize m

/-- What `ReadHeader` leaves and nothing changes afterwards (R28, R213, R215, R216). -/
abbrev State.HeaderInv (s : State) : Prop :=
  s.fmt ≠ 0 ∧ s.scale ≠ 0 ∧ s.width = widthOf s.cfg s.fmt s.scale ∧ s.height = heightOf s.cfg s.fmt s.scale ∧
  dimsOk s.cfg s.width s.height = true ∧ s.slices = s.height / 16 ∧ s.mbw = s.width / 16 ∧ s.raster.isSome = true

/-- No error has been recorded and the stream has not ended early (R27, R34). -/
abbrev State.CleanInv (s : State) : Prop := s.err = .noError ∧ s.failPos = 0 ∧ s.earlyEos = false

/-- Which grammar positions the slice loop can be in, and what holds in each (R55, R70, R128, R182, R218). -/
def State.SliceSlotInv (s : State) : Prop :=
  match s.slot with
  | .alignPad => 0 < s.sliceIdx
  | .sliceHdr => 0 < s.sliceIdx ∧ s.pos % 8 = 0
  | .mbHdr => True
  | .dc => s.desc.getLsbD 7 = true
  | .run => s.desc.getLsbD 7 = true ∧ s.hasAc s.blockIdx = true ∧ 1 ≤ s.idx ∧ s.idx ≤ 64
  | .level => s.desc.getLsbD 7 = true ∧ s.hasAc s.blockIdx = true ∧ 1 ≤ s.idx ∧ s.idx ≤ 127
  | .picHdr => False
  | .trailer => False

/-- What holds in each sequencer state (R26, R27, R109, R211, R217, R222, R250). -/
def State.PhaseInv (s : State) : Prop :=
  match s.seq with
  | .readHeader => s.pos = 0 ∧ (s.slot = .alignPad ∨ s.slot = .picHdr) ∧ s.raster = none ∧ s.CleanInv
  | .decodeSlices =>
    s.HeaderInv ∧ s.CleanInv ∧ s.pos ≤ s.limit ∧ s.sliceIdx < s.slices ∧ s.mbIdx < s.mbw ∧ s.SliceSlotInv
  | .readTrailer =>
    s.HeaderInv ∧ s.CleanInv ∧ s.pos ≤ s.limit ∧ s.sliceIdx + 1 = s.slices ∧ s.mbIdx + 1 = s.mbw ∧
    (s.slot = .alignPad ∨ s.slot = .trailer ∧ s.pos % 8 = 0)
  | .done =>
    s.HeaderInv ∧ s.pos ≤ s.limit ∧
    (s.err = .noError ∧ s.failPos = 0 ∨ s.err = .badTrailer ∧ s.failPos = s.pos ∧ s.earlyEos = false)
  | .failed => s.err.hard = true ∧ s.failPos = s.pos ∧ s.earlyEos = false

/-- Before the first `START` nothing has executed (R270): the sequencer stands where a call begins (R271). -/
abbrev State.StartInv (s : State) : Prop := s.started = false → s.seq = .readHeader ∧ s.slot = .alignPad

/-- The control invariant: what every state of a call, and a fresh instance, satisfies. -/
def State.Inv (s : State) : Prop := s.InputInv ∧ s.RasterInv ∧ s.PhaseInv ∧ s.StartInv

/-- The range of the coefficient buffer (R31, R154): `COEF[0]` in `0 .. 1023*IQUANT[0]`, the others in
`-127*IQUANT[p] .. 127*IQUANT[p]`. -/
abbrev State.CoefRange (s : State) : Prop :=
  (0 ≤ s.coef[0] ∧ s.coef[0] ≤ 1023 * (s.cfg.iquant[0] : Int)) ∧
  ∀ p : Fin 64, p ≠ 0 → -(127 * (s.cfg.iquant[p] : Int)) ≤ s.coef[p] ∧ s.coef[p] ≤ 127 * (s.cfg.iquant[p] : Int)

/-- In the AC loop every scan position from `IDX` on still holds the 0 of the cleared block (R124, R127). -/
abbrev State.UnscannedZero (s : State) : Prop :=
  s.slot = .run ∨ s.slot = .level → ∀ j : Fin 64, s.idx ≤ j.val → s.coef[s.cfg.zigzag[j]] = 0

/-- The datapath invariant. -/
def State.DataInv (s : State) : Prop := s.cfg.wf ∧ s.CoefRange ∧ s.UnscannedZero

/-- The length of an element in bits where it stands at the cursor (R71): for a symbol the length of its code there, which
`RUNTAB` or `LEVTAB` gives (R39), else the length `encode` writes. -/
def State.elementLength (s : State) (i : Instr) : Nat :=
  match i.runOf, i.levelOf with
  | some (_, r), _ => runCodeLength r s
  | none, some (_, v) => levelCodeLength (.level v) s
  | none, none => if i = .eob then levelCodeLength .eob s else bitLength s.cfg i

/-- A bound on the steps a running call still takes (R229, R281): two for every stream bit up to `LIMIT` and one or two
for the element at the cursor. -/
def State.stepsLeft (s : State) : Nat := 2 * (s.limit - s.pos) + (if s.slot = .alignPad then 2 else 1)

/-- A state without the model's own grammar position. -/
def State.dropSlot (s : State) : State := { s with slot := .alignPad }

/-- A state without what depends on the host's clock (R21, R226). -/
def State.dropClock (s : State) : State := { s with decodeSeconds := ⟨0, 0⟩, clockDraws := 0 }

/-- The fields R44 calls unspecified at reset, set to given values, all else as it is. -/
def State.withUnspecified (s u : State) : State :=
  { s with fmt := u.fmt, scale := u.scale, width := u.width, height := u.height, slices := u.slices, mbw := u.mbw,
           desc := u.desc, coef := u.coef, idx := u.idx, ws := u.ws, spat := u.spat }

/-- The transitions of `SEQ` (R211, "complete list"), with the state itself where an element leaves it. -/
def Seq.canFollow : Seq → Seq → Bool
  | .readHeader, .readHeader => true
  | .readHeader, .decodeSlices => true
  | .readHeader, .failed => true
  | .decodeSlices, .decodeSlices => true
  | .decodeSlices, .readTrailer => true
  | .decodeSlices, .done => true
  | .decodeSlices, .failed => true
  | .readTrailer, .readTrailer => true
  | .readTrailer, .done => true
  | .readTrailer, .failed => true
  | .done, .done => true
  | .failed, .failed => true
  | _, _ => false

/-- A result without the host's measurement (R272: `DECODE_SECONDS` alone is outside the guarantee). -/
def CallResult.dropSeconds : CallResult → CallResult
  | .ok w h r _ e => .ok w h r ⟨0, 0⟩ e
  | .suspect w h r _ => .suspect w h r ⟨0, 0⟩
  | .error k p => .error k p

end Sys2Proof.Machine
end

