-- ==== Sys2Proof/Certificates/Slice0/Obligations.lean ====
section
/-! DEFINITION. The statements about the model, each with the rule of the spec it formalises. Where a statement rests on a
value or behaviour that the spec marks as its own decision, as derived or as general knowledge, or that this model chose,
its docstring says so and names the log entry. -/

open Sys2Proof Sys2Proof.Machine

/-! ### Encoding -/

/-- R70 to R81, R86: under every configuration whose code tables hold prefix codes (R80), decoding an encoded well-formed
element gives it back, whatever bits follow it; padding is read as exactly the bits that are there. Which code stands for a
symbol that has several is log 26. -/
def Obligations.DecodeOfEncodeIsIdentity : Prop :=
  ∀ (c : Cfg) (i : Instr) (rest : Bits), c.codesWf → i.wf c = true → (i.slot = .alignPad → rest = []) →
    decode c i.slot (encode c i ++ rest) = i

/-- R71, R81: the element read at a grammar position is written by the very bits that stand there, so no bit of an
element is dropped and no two bit patterns of one element differ. A symbol is so written where each
symbol has one code, and a reserved pattern under the `REF` codes (log 1, log 26). -/
def Obligations.EncodeOfDecodeIsThePrefixRead : Prop :=
  ∀ (c : Cfg) (p : Slot) (bits : Bits), windowLength c 0 p ≤ bits.length →
    (p = .run ∨ p = .level →
      c.oneCode ∧ decode c p bits ≠ .runReserved ∧ decode c p bits ≠ .levelReserved ∨ c.refCodes) →
    encode c (decode c p bits) <+: bits

/-- R70, R81: every bit pattern at every grammar position decodes to a well-formed element of that position. -/
def Obligations.DecodedElementIsWellFormed : Prop :=
  ∀ (c : Cfg) (p : Slot) (bits : Bits), (p = .alignPad → bits.length ≤ 7) →
    (decode c p bits).wf c = true ∧ (decode c p bits).slot = p

/-- R80 (derived there): no code of a class, nor its reserved pattern, is a prefix of another one of the same class, under
`REF` and under every configuration whose code tables are decided code by code. -/
def Obligations.SymbolCodesArePrefixFree : Prop :=
  Config.ref.codesWf ∧
  ∀ (c : Cfg) (i j : Instr), c.codesWf → i.wf c = true → j.wf c = true → i.slot = j.slot →
    (i.slot = .run ∨ i.slot = .level) → encode c i <+: encode c j → i = j

/-- R72 to R79, R86: words written out bit by bit from the spec's tables decode to the elements they stand for, one for
each family. The bit patterns are `REF` (log 1). -/
def Obligations.WrittenOutWordsDecode : Prop :=
  decode Config.ref .sliceHdr
      [false, false, false, false, false, false, false, false, false, false, false, false, false, false, false, false,
       true, false, false, true, false, true] = .gobHdr 0x25 [] ∧
  decode Config.ref .mbHdr [false, true, true, false, true, false, false, false, true, true, false] = .mbHdrR 0x11 2 ∧
  decode Config.ref .dc [false, true, false, true, false, true, false, true, false, false] = .dc 340 ∧
  decode Config.ref .run [false, false, false, true, true, false] = .run3 2 ∧
  decode Config.ref .level [false, false, false, true, true, true, true] = .level3 3 1 ∧
  decode Config.ref .level [false, true] = .eob

/-- R10 (P11), R39, R124, R129: `RUNTAB` can hold any table over the 4096 windows; on every 12-bit window of every
configuration, the element decoded and what it does at that window are what `RUNTAB` says: a reserved window is
`RUN.RESERVED`, and every other one consumes the entry's length and adds its run. With the `REF` codes (log 1) `RUNTAB` is
`RunDecode`, with 32 reserved windows. -/
def Obligations.RunWindowsFollowRunDecode : Prop :=
  (∀ table : BitVec 12 → Option RunEntry,
    ∃ t : CodeTable RunEntry, ∀ (c : Cfg) (w : BitVec 12), c.runTab = t →
      runtab c w = (table w).map fun e => (e.lenPred.val + 1, e.run.val)) ∧
  ∀ (c : Cfg) (w : BitVec 12),
    (match runtab c w with
    | none => decodeRun c w = .runReserved
    | some (len, run) =>
      1 ≤ len ∧ len ≤ 12 ∧ run ≤ 63 ∧
      ∀ s : State, s.cfg = c → bcPeek 12 s = w → s.pos + len ≤ s.limit →
        exec (decodeRun c w) s = .next { s with pos := s.pos + len, idx := s.idx + run, slot := .level }) ∧
    (c.refCodes → runtab c w = runDecode c w ∧ (runDecode c w = none ↔ w.toNat < 32))

/-- R10 (P11), R39, R125, R126, R129: `LEVTAB` can hold any table over the 32768 windows; on every 15-bit window of every
configuration, the element decoded and what it does at that window are what `LEVTAB` says: a reserved window is
`LEVEL.RESERVED`, the sentinel is `EOB`, of the entry's length, and a level of magnitude 1 to 127 is placed. With the `REF`
codes (log 1) `LEVTAB` is `LevelDecode`, with 128 reserved windows and an `EOB` of 2 bits. -/
def Obligations.LevelWindowsFollowLevelDecode : Prop :=
  (∀ table : BitVec 15 → Option LevelEntry,
    ∃ t : CodeTable LevelEntry, ∀ (c : Cfg) (w : BitVec 15), c.levTab = t →
      levtab c w = (table w).map fun e => (e.lenPred.val + 2, e.value.symbol)) ∧
  ∀ (c : Cfg) (w : BitVec 15),
    (match levtab c w with
    | none => decodeLevel c w = .levelReserved
    | some (len, .eob) =>
      2 ≤ len ∧ len ≤ 15 ∧ decodeLevel c w = .eob ∧
      ∀ s : State, s.cfg = c → bcPeek 15 s = w → s.elementLength .eob = len
    | some (len, .level v) =>
      2 ≤ len ∧ len ≤ 15 ∧ v ≠ 0 ∧ -127 ≤ v ∧ v ≤ 127 ∧
      ∀ (s : State) (h : s.idx < 64), s.cfg = c → bcPeek 15 s = w → s.pos + len ≤ s.limit →
        exec (decodeLevel c w) s =
          .next { deqAc ⟨s.idx, h⟩ v s with pos := s.pos + len, idx := s.idx + 1, slot := .run }) ∧
    (c.refCodes →
      levtab c w = levelDecode c w ∧ (levelDecode c w = none ↔ w.toNat < 128) ∧
      ∀ len, levelDecode c w = some (len, .eob) → len = 2)

/-- R78, R79, R84: a run value 0..63 or a level -127..-1, 1..127 that has a code is read back by the decode tables from the
assembler's bits, with its length and value, whatever bits follow; with the `REF` codes (log 1) every one of them has a
code. -/
def Obligations.AssembledSymbolsReadBack : Prop :=
  ∀ (c : Cfg) (rest : Bits), c.codesWf →
    (∀ r : Nat, r ≤ 63 → (asmRun r).wf c = true →
      runtab c (field (encode c (asmRun r) ++ rest) 0 12) = some (bitLength c (asmRun r), r)) ∧
    (∀ v : Int, v ≠ 0 → -127 ≤ v → v ≤ 127 → (asmLevel v).wf c = true →
      levtab c (field (encode c (asmLevel v) ++ rest) 0 15) = some (bitLength c (asmLevel v), .level v)) ∧
    (c.refCodes →
      (∀ r : Nat, r ≤ 63 → (asmRun r).wf c = true) ∧
      (∀ v : Int, v ≠ 0 → -127 ≤ v → v ≤ 127 → (asmLevel v).wf c = true))

/-- R51, R84: bits packed into bytes are delivered in order by the stream of the buffer, then zeros. The bit order is the
spec's decision D10 (log 9). -/
def Obligations.PackedBytesDeliverTheStream : Prop :=
  ∀ (c : Cfg) (draws : Nat) (bits : Bits) (k : Nat), (atStart c draws (packBytes bits)).sbit k = bitAt bits k

/-! ### The bit cursor -/

/-- R103: `BC.SKIP(n)` adds `n` to `pos` and changes nothing else; `overrun` becomes `pos > LIMIT` for the new `pos` and
stays 1 if it was 1; `BC.SKIP(0)` changes nothing. -/
def Obligations.SkipAddsToPositionOnly : Prop :=
  ∀ (n : Nat) (s : State),
    bcSkip n s = { s with pos := s.pos + n } ∧
    (bcSkip n s).overrun = decide (s.limit < s.pos + n) ∧
    (s.overrun = true → (bcSkip n s).overrun = true) ∧
    bcSkip 0 s = s ∧
    (s.pos = 10 → (bcSkip 3 s).pos = 13)

/-- R102, R104: a peek is the weighted sum of the next stream bits, the first the most significant; a read is the peek
with the skip; a shorter peek is the first bits of a longer one. The bit order is decision D10 (log 9). -/
def Obligations.PeekIsTheWeightedSumOfStreamBits : Prop :=
  ∀ (n : Nat) (s : State),
    (bcPeek n s).toNat = ∑ i ∈ Finset.range n, (s.sbit (s.pos + i)).toNat * 2 ^ (n - 1 - i) ∧
    bcRead n s = (bcPeek n s, bcSkip n s) ∧
    ∀ m, m ≤ n → bcPeek m s = (bcPeek n s).extractLsb' (n - m) m

/-- R51, R53: a stream bit is bit `j(k)` of `BUF[a(k)]`, and 0 where `a(k) >= LEN`; every bit before `LIMIT` is backed by
the buffer and bit `LIMIT` is not. The zero fill of a partial word is decision D11 (log 10). -/
def Obligations.StreamBitsComeFromTheBufferThenZeros : Prop :=
  ∀ (s : State) (k : Nat),
    (streamByte k < s.len → s.sbit k = (Memory.read 0 s.buf (streamByte k)).getLsbD (7 - k % 8)) ∧
    (s.len ≤ streamByte k → s.sbit k = false) ∧
    (k < s.limit → streamByte k < s.len) ∧
    s.len ≤ streamByte s.limit

/-- R105: `BC.ALIGN` skips to the next multiple of 8, at most 7 bits, none at an aligned position, and never past `LIMIT`
from inside it. The count is the spec's decision D14 (log 11). -/
def Obligations.AlignStopsAtTheNextByteBoundary : Prop :=
  ∀ s : State,
    bcAlign s = { s with pos := s.pos + padLength s.pos } ∧ (bcAlign s).pos % 8 = 0 ∧ padLength s.pos ≤ 7 ∧
    (s.pos % 8 = 0 → bcAlign s = s) ∧ (s.pos ≤ s.limit → (bcAlign s).pos ≤ s.limit)

/-! ### The machine -/

/-- R2, R229, R270: a running call, one that `START` has begun and that has not ended, runs the element its decoder reads at the
cursor; before the first `START` and after a call nothing executes and the state stays as it is (log 8, log 27). -/
def Obligations.StepRunsTheElementAtTheCursor : Prop :=
  ∀ s : State, (s.running = true → step s = exec (decode s.cfg s.slot (s.window (windowLength s.cfg s.pos s.slot))) s) ∧
    (s.running = false → step s = .next s) ∧
    (s.running = true ↔ s.started = true ∧ s.seq ≠ .done ∧ s.seq ≠ .failed)

/-- R2, R70: when the stream bits at `pos` begin with the encoding of a well-formed element of the current grammar
position (padding: exactly as many bits as reach the byte boundary), the step is that element's `exec`, under every
configuration whose code tables hold prefix codes (R80). -/
def Obligations.StepRunsTheEncodedElement : Prop :=
  ∀ (s : State) (i : Instr) (n : Nat), s.cfg.codesWf → s.running = true → i.wf s.cfg = true → s.slot = i.slot →
    (i.slot = .alignPad → bitLength s.cfg i = padLength s.pos) → encode s.cfg i <+: s.window n →
    step s = exec i s

/-- R22, R23, R35, R61, R106: whatever element runs in whatever state, `pos` never decreases, and the input buffer, its
length, the configuration and whether `START` has been given do not change. -/
def Obligations.NoElementMovesBackOrWritesInput : Prop :=
  ∀ (i : Instr) (s t : State), exec i s = .next t →
    s.pos ≤ t.pos ∧ t.buf = s.buf ∧ t.len = s.len ∧ t.cfg = s.cfg ∧ t.started = s.started

/-- R71, R228: an element that does not end the call in `Failed` advances `pos` by its own length, that of a symbol being the
length of its code at the cursor (R39); where each symbol has one code, and for every other element, it is the length of the
element's encoding. -/
def Obligations.ElementAdvancesByItsLength : Prop :=
  ∀ (i : Instr) (s t : State), i.wf s.cfg = true → i.slot ≠ .alignPad → exec i s = .next t → t.seq ≠ .failed →
    t.pos = s.pos + s.elementLength i ∧
    ((i.slot = .run ∨ i.slot = .level → s.cfg.oneCode) → s.elementLength i = bitLength s.cfg i)

/-- R59, R109, R211, R253: from every state that satisfies the control invariant the step answers a next state, never a
fault or a refusal, and that state satisfies the invariant. -/
def Obligations.StepNeverFaultsAndKeepsTheInvariant : Prop :=
  ∀ s : State, s.Inv → ∃ t, step s = .next t ∧ t.Inv

/-- R44, R270: the state after reset, which waits for the first `START`, and the state at the start of every call satisfy the
control invariant, and the datapath invariant where the configuration meets the spec's constraints. The values of the registers that R44 leaves
unspecified are the model's (log 5). -/
def Obligations.ResetAndStartSatisfyTheInvariants : Prop :=
  State.reset.Inv ∧ State.reset.DataInv ∧
  ∀ (c : Cfg) (draws : Nat) (bytes : List Byte),
    (State.resetOf c).Inv ∧ (c.wf → (State.resetOf c).DataInv) ∧
    (atStart c draws bytes).Inv ∧ (c.wf → (atStart c draws bytes).DataInv)

/-- R31, R124, R127, R154: every step keeps the coefficients in their range and, in the AC loop, every scan position not
yet reached at 0. That the largest level is 127 is R39's, from the `REF` codes (log 1). -/
def Obligations.StepKeepsCoefficientsInRange : Prop :=
  ∀ s t : State, s.Inv → s.DataInv → step s = .next t → t.DataInv

/-- R229, R253, R281: every call ends, in `Done` or `Failed`, within a number of steps fixed by the bits left; an instance
without a call runs nothing (R270, log 27). -/
def Obligations.CallEndsWithinTheStepBound : Prop :=
  ∀ s : State, s.Inv →
    ∃ t : State, Host.Core.run Sys2Proof.core s.stepsLeft s = .next t ∧ t.running = false ∧ t.Inv ∧
      (s.started = true → t.seq = .done ∨ t.seq = .failed) ∧ (s.started = false → t = s)

/-- R120, R180, R211: the steps of a call end in the state that the spec's pseudocode `DECODE(BUF, LEN)` computes, in
every field (the grammar position, the model's own, apart). -/
def Obligations.StepsComputeTheDecodePseudocode : Prop :=
  ∀ (c : Cfg) (draws : Nat) (bytes : List Byte),
    ∃ t : State, Host.Core.run Sys2Proof.core (atStart c draws bytes).stepsLeft (atStart c draws bytes) = .next t ∧
      t.running = false ∧ t.dropSlot = (decodeCall (atStart c draws bytes)).dropSlot

/-- R211, R219, R222: `SEQ` makes only the transitions of the spec's complete list; `DecodeSlices` ends in `Done` only at
the element EOSMARK, `ReadTrailer` only at an element TRAILER. The end of the call at EOSMARK is the spec's decision D28
(log 14). -/
def Obligations.SequencerMakesOnlyTheListedTransitions : Prop :=
  ∀ s t : State, s.Inv → step s = .next t →
    Seq.canFollow s.seq t.seq = true ∧
    (s.seq = .decodeSlices → t.seq = .done → fetch s = .eosMark ∧ t.earlyEos = true ∧ t.err = .noError) ∧
    (s.seq = .readTrailer → t.seq = .done → (∃ m : Marker, fetch s = .trailer m) ∧ t.earlyEos = false)

/-- R28: the header registers are written in `ReadHeader` only. -/
def Obligations.HeaderRegistersAreReadOnlyAfterReadHeader : Prop :=
  ∀ s t : State, s.Inv → s.seq ≠ .readHeader → step s = .next t →
    t.fmt = s.fmt ∧ t.scale = s.scale ∧ t.width = s.width ∧ t.height = s.height ∧ t.slices = s.slices ∧ t.mbw = s.mbw

/-- R21, R226: the host's clock influences nothing but `DECODE_SECONDS`: two runs that differ in it only go on differing
in it only. -/
def Obligations.HostClockInfluencesOnlyItself : Prop :=
  ∀ (k : Nat) (s s' t : State), s.dropClock = s'.dropClock → Host.Core.run Sys2Proof.core k s = .next t →
    ∃ t' : State, Host.Core.run Sys2Proof.core k s' = .next t' ∧ t'.dropClock = t.dropClock

/-- R21: two calls on the same bytes, on instances of one configuration with whatever earlier calls behind them, go the
same way and give the same result, the measured duration apart. -/
def Obligations.ResultDependsOnTheBufferAlone : Prop :=
  ∀ (bytes : List Byte) (a b u v t : State) (k : Nat), a.cfg = b.cfg →
    hostStart bytes a = .next u → hostStart bytes b = .next v → Host.Core.run Sys2Proof.core k u = .next t →
    ∃ t' : State, Host.Core.run Sys2Proof.core k v = .next t' ∧ t'.seq = t.seq ∧ t'.pos = t.pos ∧
      (callResult t').map CallResult.dropSeconds = (callResult t).map CallResult.dropSeconds

/-- R44, R272 and 92_eei_decisions.md D39: no register that the spec leaves unspecified at reset influences the result;
whatever values they hold at the start of a call, the call ends after the same number of steps with the same result. -/
def Obligations.UnspecifiedRegistersInfluenceNoResult : Prop :=
  ∀ (c : Cfg) (draws : Nat) (bytes : List Byte) (u t : State) (k : Nat),
    Host.Core.run Sys2Proof.core k (atStart c draws bytes) = .next t → t.running = false →
    ∃ t' : State, Host.Core.run Sys2Proof.core k ((atStart c draws bytes).withUnspecified u) = .next t' ∧
      t'.running = false ∧ callResult t' = callResult t

/-! ### Frames -/

/-- R28, R30 to R34, R43, R151, R160, R230: what each element leaves unchanged, of the registers: only PICHDR writes
the header registers, only a macroblock header `DESC`, only DC and the levels `COEF`, only DC, runs and levels `IDX`, only DC and EOB `WS` and `SPAT`
(and of `SPAT` only block `B`), only EOSMARK `EARLY_EOS`, only EOSMARK and TRAILER the measured duration, and `ERR`,
`FAIL_POS` only an element that fails, or TRAILER. -/
def Obligations.EachElementChangesOnlyItsOwnRegisters : Prop :=
  ∀ (i : Instr) (s t : State), exec i s = .next t →
    (i.slot ≠ .picHdr →
      t.fmt = s.fmt ∧ t.scale = s.scale ∧ t.width = s.width ∧ t.height = s.height ∧ t.slices = s.slices ∧ t.mbw = s.mbw) ∧
    (i.slot ≠ .mbHdr → t.desc = s.desc) ∧
    (i.slot ≠ .dc → i.slot ≠ .level → t.coef = s.coef) ∧
    (i.slot ≠ .dc → i.slot ≠ .run → i.slot ≠ .level → t.idx = s.idx) ∧
    (i.slot ≠ .dc → i ≠ .eob → t.ws = s.ws ∧ t.spat = s.spat) ∧
    (∀ b : Fin 6, b ≠ s.blockIdx → t.spat[b] = s.spat[b]) ∧
    (i ≠ .eosMark → t.earlyEos = s.earlyEos) ∧
    (i ≠ .eosMark → i.slot ≠ .trailer → t.decodeSeconds = s.decodeSeconds ∧ t.clockDraws = s.clockDraws) ∧
    (t.seq ≠ .failed → i.slot ≠ .trailer → t.err = s.err ∧ t.failPos = s.failPos)

/-- R57, R190: every raster byte outside the footprint of macroblock `(S, M)` reads as before, whatever element runs
(PICHDR, which allocates the raster, apart); and an element other than DC and EOB, or one in a block before the last,
leaves the whole raster as it is. -/
def Obligations.RasterChangesOnlyInsideTheMacroblock : Prop :=
  ∀ (i : Instr) (s t : State), i.slot ≠ .picHdr → s.RasterInv → exec i s = .next t →
    (∀ a : Nat,
      (∀ j : Fin 256, a < pixelAddress s.width (pixelX s j) (pixelY s j) ∨
        pixelAddress s.width (pixelX s j) (pixelY s j) + 2 < a) →
      t.rasterByte a = s.rasterByte a) ∧
    ((i.slot ≠ .dc ∧ i ≠ .eob ∨ s.blockIdx ≠ 5) → t.raster = s.raster)

/-- R184, R192, R250: an element that fails writes no raster byte and allocates no raster. -/
def Obligations.FailingElementLeavesTheRaster : Prop :=
  ∀ (i : Instr) (s t : State), s.seq ≠ .failed → exec i s = .next t → t.seq = .failed →
    t.raster = s.raster ∧ t.failPos = t.pos ∧ t.err.hard = true

/-! ### Headers and markers -/

/-- R76, R105: ALIGNPAD moves to the next byte boundary and on to the element the sequencer state reads there; nothing else
changes. The count is decision D14 (log 11). -/
def Obligations.AlignPadCompletes : Prop :=
  ∀ (pad : Bits) (s : State),
    exec (.alignPad pad) s = .next { s with
      pos := s.pos + padLength s.pos
      slot := match s.seq with
        | .readHeader => .picHdr
        | .decodeSlices => .sliceHdr
        | .readTrailer => .trailer
        | .done => s.slot
        | .failed => s.slot }

/-- R212 to R216: PICHDR with the start marker, nonzero selectors and acceptable dimensions, all inside `LIMIT`, sets the
header registers, allocates the raster and enters the slice loop. -/
def Obligations.PicHdrCompletes : Prop :=
  ∀ (fmt : BitVec 2) (scale : BitVec 3) (d : Bits) (s : State),
    s.pos + (27 + s.cfg.hdrDiscardBits) ≤ s.limit → fmt ≠ 0 → scale ≠ 0 →
    dimsOk s.cfg (widthOf s.cfg fmt scale) (heightOf s.cfg fmt scale) = true →
    exec (.picHdr s.cfg.psc fmt scale d) s = .next { s with
      pos := s.pos + (27 + s.cfg.hdrDiscardBits), fmt := fmt, scale := scale
      width := widthOf s.cfg fmt scale, height := heightOf s.cfg fmt scale
      slices := heightOf s.cfg fmt scale / 16, mbw := widthOf s.cfg fmt scale / 16
      raster := some [], seq := .decodeSlices, sliceIdx := 0, mbIdx := 0, slot := .mbHdr }

/-- R212, R215, R242: a wrong start marker, a zero format, a zero scale or unacceptable dimensions raise `InvalidHeader`,
each as soon as its field is read, the dimensions after the discard. The order is decision D26 (log 12). -/
def Obligations.PicHdrRejectsIllegalFields : Prop :=
  ∀ (psc : Marker) (fmt : BitVec 2) (scale : BitVec 3) (d : Bits) (s : State),
    (psc ≠ s.cfg.psc → s.pos + 22 ≤ s.limit →
      exec (.picHdr psc fmt scale d) s = .next (raise .invalidHeader { s with pos := s.pos + 22 })) ∧
    (psc = s.cfg.psc → fmt = 0 → s.pos + 24 ≤ s.limit →
      exec (.picHdr psc fmt scale d) s = .next (raise .invalidHeader { s with pos := s.pos + 24, fmt := 0 })) ∧
    (psc = s.cfg.psc → fmt ≠ 0 → scale = 0 → s.pos + 27 ≤ s.limit →
      exec (.picHdr psc fmt scale d) s =
        .next (raise .invalidHeader { s with pos := s.pos + 27, fmt := fmt, scale := 0 })) ∧
    (psc = s.cfg.psc → fmt ≠ 0 → scale ≠ 0 → s.pos + (27 + s.cfg.hdrDiscardBits) ≤ s.limit →
      dimsOk s.cfg (widthOf s.cfg fmt scale) (heightOf s.cfg fmt scale) = false →
      exec (.picHdr psc fmt scale d) s =
        .next (raise .invalidHeader { s with
          pos := s.pos + (27 + s.cfg.hdrDiscardBits), fmt := fmt, scale := scale
          width := widthOf s.cfg fmt scale, height := heightOf s.cfg fmt scale }))

/-- R111, R212, R214, R241, R249: a header field that ends past `LIMIT` raises `TruncatedInput` before it is validated,
with `pos` after the field. That truncation goes first is decision D12 (log 13). -/
def Obligations.PicHdrCutOffIsTruncatedInput : Prop :=
  ∀ (psc : Marker) (fmt : BitVec 2) (scale : BitVec 3) (d : Bits) (s : State),
    (s.limit < s.pos + 22 →
      exec (.picHdr psc fmt scale d) s = .next (raise .truncatedInput { s with pos := s.pos + 22 })) ∧
    (s.pos + 22 ≤ s.limit → s.limit < s.pos + 24 → psc = s.cfg.psc →
      exec (.picHdr psc fmt scale d) s = .next (raise .truncatedInput { s with pos := s.pos + 24 })) ∧
    (s.pos + 24 ≤ s.limit → s.limit < s.pos + 27 → psc = s.cfg.psc → fmt ≠ 0 →
      exec (.picHdr psc fmt scale d) s = .next (raise .truncatedInput { s with pos := s.pos + 27, fmt := fmt })) ∧
    (s.pos + 27 ≤ s.limit → s.limit < s.pos + (27 + s.cfg.hdrDiscardBits) → psc = s.cfg.psc → fmt ≠ 0 → scale ≠ 0 →
      exec (.picHdr psc fmt scale d) s = .next (raise .truncatedInput { s with
        pos := s.pos + (27 + s.cfg.hdrDiscardBits), fmt := fmt, scale := scale
        width := widthOf s.cfg fmt scale, height := heightOf s.cfg fmt scale }))

/-- R218 to R220: inside `LIMIT`, GOBHDR opens the macroblock loop of the slice and leaves all else as it is; EOSMARK ends
the call in `Done` with `EARLY_EOS`. The measured duration is the host's free value (log 2), and the end of the call at
EOSMARK is decision D28 (log 14). -/
def Obligations.SliceMarkersComplete : Prop :=
  ∀ s : State,
    (∀ (m : Marker) (d : Bits), s.pos + (22 + s.cfg.gobExtraBits) ≤ s.limit →
      exec (.gobHdr m d) s =
        .next { s with pos := s.pos + (22 + s.cfg.gobExtraBits), mbIdx := 0, slot := .mbHdr }) ∧
    (s.pos + 22 ≤ s.limit →
      exec .eosMark s = .next { s with
        pos := s.pos + 22, earlyEos := true, seq := .done
        decodeSeconds := Config.wallClock s.clockDraws, clockDraws := s.clockDraws + 1 })

/-- R222, R246: a trailer equal to `EOP` ends the call in `Done`; any other, with the soft error `BadTrailer` and
`FAIL_POS` after it, in `Done` all the same, the raster kept. The policy is decision D31 (log 14); the measured duration
is free (log 2). -/
def Obligations.TrailerCompletes : Prop :=
  ∀ (m : Marker) (s : State), s.pos + 22 ≤ s.limit →
    (m = s.cfg.eop →
      exec (.trailer m) s = .next { s with
        pos := s.pos + 22, seq := .done
        decodeSeconds := Config.wallClock s.clockDraws, clockDraws := s.clockDraws + 1 }) ∧
    (m ≠ s.cfg.eop →
      exec (.trailer m) s = .next { s with
        pos := s.pos + 22, seq := .done, err := .badTrailer, failPos := s.pos + 22
        decodeSeconds := Config.wallClock s.clockDraws, clockDraws := s.clockDraws + 1 })

/-- R218, R245, R250: BADMARK, inside `LIMIT`, raises `BadSliceMarker` with `FAIL_POS` after the marker. `FAIL_POS` is the
spec's own diagnostic (D38, log 13). -/
def Obligations.BadMarkRaisesBadSliceMarker : Prop :=
  ∀ (m : Marker) (s : State), s.pos + 22 ≤ s.limit →
    exec (.badMark m) s =
      .next { s with pos := s.pos + 22, err := .badSliceMarker, failPos := s.pos + 22, seq := .failed }

/-- R111, R241: a marker that ends past `LIMIT` raises `TruncatedInput`, whatever it is; so do the discarded bits after a
slice start (decisions D12, D32; log 13). -/
def Obligations.MarkersCutOffAreTruncatedInput : Prop :=
  ∀ (m : Marker) (d : Bits) (s : State),
    (s.limit < s.pos + 22 → ∀ i ∈ [Instr.gobHdr m d, .eosMark, .trailer m, .badMark m],
      exec i s = .next (raise .truncatedInput { s with pos := s.pos + 22 })) ∧
    (s.pos + 22 ≤ s.limit → s.limit < s.pos + (22 + s.cfg.gobExtraBits) →
      exec (.gobHdr m d) s = .next (raise .truncatedInput { s with pos := s.pos + (22 + s.cfg.gobExtraBits) }))

/-! ### Macroblock headers -/

/-- R181 to R184: MBHDR and MBHDR.R, inside `LIMIT`, set `DESC` (bit 7 set, bit 6 the extension flag, bits 5..0 the six
flags) and enter the block loop at block 0; the reserved bits only move `pos`. -/
def Obligations.MbHdrCompletes : Prop :=
  ∀ (flags : BitVec 6) (rsv : BitVec 2) (s : State),
    (s.pos + 9 ≤ s.limit →
      exec (.mbHdr flags) s = .next { s with pos := s.pos + 9, desc := descOf false flags, blockIdx := 0, slot := .dc }) ∧
    (s.pos + 11 ≤ s.limit →
      exec (.mbHdrR flags rsv) s =
        .next { s with pos := s.pos + 11, desc := descOf true flags, blockIdx := 0, slot := .dc }) ∧
    ∀ ext : Bool, (descOf ext flags).getLsbD 7 = true ∧ (descOf ext flags).getLsbD 6 = ext ∧
      (descOf ext flags).extractLsb' 0 6 = flags

/-- R181, R182, R243, R244: MBHDR.C raises `UnsupportedMacroblock` after one bit, its descriptor unread; MBHDR.INVALID
raises `InvalidDescriptor` after the descriptor, which `DESC` then holds. The order of the checks is decision D41
(log 12). -/
def Obligations.IllegalMbHdrRaises : Prop :=
  ∀ (low : BitVec 7) (s : State),
    (s.pos + 1 ≤ s.limit →
      exec .mbHdrC s =
        .next { s with pos := s.pos + 1, err := .unsupportedMacroblock, failPos := s.pos + 1, seq := .failed }) ∧
    (s.pos + 9 ≤ s.limit →
      exec (.mbHdrInvalid low) s =
        .next { s with pos := s.pos + 9, desc := descInvalid low
                       err := .invalidDescriptor, failPos := s.pos + 9, seq := .failed }) ∧
    (descInvalid low).getLsbD 7 = false ∧ (descInvalid low).extractLsb' 0 7 = low

/-- R111, R192, R241: a macroblock header field that ends past `LIMIT` raises `TruncatedInput` before its value is used; a
descriptor cut off is not written (decision D12, log 13). -/
def Obligations.MbHdrCutOffIsTruncatedInput : Prop :=
  ∀ (flags : BitVec 6) (rsv : BitVec 2) (low : BitVec 7) (s : State),
    (s.limit < s.pos + 1 → ∀ i ∈ [Instr.mbHdrC, .mbHdr flags, .mbHdrR flags rsv, .mbHdrInvalid low],
      exec i s = .next (raise .truncatedInput { s with pos := s.pos + 1 })) ∧
    (s.pos + 1 ≤ s.limit → s.limit < s.pos + 9 → ∀ i ∈ [Instr.mbHdr flags, .mbHdrR flags rsv, .mbHdrInvalid low],
      exec i s = .next (raise .truncatedInput { s with pos := s.pos + 9 })) ∧
    (s.pos + 9 ≤ s.limit → s.limit < s.pos + 11 →
      exec (.mbHdrR flags rsv) s =
        .next (raise .truncatedInput { s with pos := s.pos + 11, desc := descOf true flags }))

/-! ### Blocks -/

/-- R121, R123, R151: DC of a block with AC coefficients, inside `LIMIT`: the block is cleared but for `COEF[0]`, and the
AC loop begins at scan index 1. That the field is unsigned is decision D15 (log 15). -/
def Obligations.DcOfAnAcBlockCompletes : Prop :=
  ∀ (v : BitVec 10) (s : State), s.pos + 10 ≤ s.limit → s.desc.getLsbD s.blockIdx.val = true →
    exec (.dc v) s = .next { s with
      pos := s.pos + 10, coef := zeroBlock.set 0 ((v.toNat : Int) * (s.cfg.iquant[0] : Int)), idx := 1, slot := .run }

/-- R121, R122, R160, R184: DC of a block without AC coefficients before the last, inside `LIMIT`: the block is `COEF[0]`
alone, it is transformed into `SPAT[B]`, and block `B + 1` follows. -/
def Obligations.DcOfAFlatBlockCompletes : Prop :=
  ∀ (v : BitVec 10) (s : State) (h : s.blockIdx.val < 5), s.pos + 10 ≤ s.limit →
    s.desc.getLsbD s.blockIdx.val = false →
    exec (.dc v) s = .next { s with
      pos := s.pos + 10, coef := zeroBlock.set 0 ((v.toNat : Int) * (s.cfg.iquant[0] : Int))
      ws := pass1 s.cfg (zeroBlock.set 0 ((v.toNat : Int) * (s.cfg.iquant[0] : Int)))
      spat := s.spat.set s.blockIdx.val
        (pass2 s.cfg (pass1 s.cfg (zeroBlock.set 0 ((v.toNat : Int) * (s.cfg.iquant[0] : Int))))) s.blockIdx.isLt
      blockIdx := ⟨s.blockIdx.val + 1, by omega⟩, slot := .dc }

/-- R126, R160, R184: EOB of a block before the last, inside `LIMIT` and at any `IDX`: its code word, 2 bits under the `REF`
codes (log 1), is consumed, `COEF` stands as it is, it is transformed into `SPAT[B]`, and block `B + 1` follows. -/
def Obligations.EobCompletes : Prop :=
  ∀ (s : State) (h : s.blockIdx.val < 5),
    (s.pos + s.elementLength .eob ≤ s.limit →
      exec .eob s = .next { s with
        pos := s.pos + s.elementLength .eob, ws := pass1 s.cfg s.coef
        spat := s.spat.set s.blockIdx.val (pass2 s.cfg (pass1 s.cfg s.coef)) s.blockIdx.isLt
        blockIdx := ⟨s.blockIdx.val + 1, by omega⟩, slot := .dc }) ∧
    (s.cfg.refCodes → s.elementLength .eob = 2)

/-- R59, R180, R184, R190, R217, R221: the element that ends block 5 (EOB, or the DC of a block without AC coefficients),
inside `LIMIT`: with the macroblock inside an allocated raster the block is transformed, all pixels are stored, and the
next macroblock, slice or the trailer follows; without a raster, or with the macroblock outside it, the model stops with
`rasterBounds` (the model's name for an access outside the raster, which no state of a call makes; log 20). -/
def Obligations.LastBlockStoresTheMacroblock : Prop :=
  ∀ s : State, s.blockIdx = 5 →
    (∀ m : Memory, s.raster = some m → footprintInside s = true →
      (s.pos + s.elementLength .eob ≤ s.limit →
        let u := idct 5 { s with pos := s.pos + s.elementLength .eob }
        exec .eob s = .next (nextMacroblock { u with raster := some ((List.finRange 256).foldl (storeSample u) m) })) ∧
      (∀ v : BitVec 10, s.pos + 10 ≤ s.limit → s.desc.getLsbD 5 = false →
        let u := idct 5 { s with
          pos := s.pos + 10, coef := zeroBlock.set 0 ((v.toNat : Int) * (s.cfg.iquant[0] : Int)) }
        exec (.dc v) s =
          .next (nextMacroblock { u with raster := some ((List.finRange 256).foldl (storeSample u) m) }))) ∧
    (s.raster = none ∨ footprintInside s = false →
      (s.pos + s.elementLength .eob ≤ s.limit → exec .eob s = .fault .rasterBounds) ∧
      (∀ v : BitVec 10, s.pos + 10 ≤ s.limit → s.desc.getLsbD 5 = false → exec (.dc v) s = .fault .rasterBounds)) ∧
    (s.mbIdx + 1 < s.mbw → nextMacroblock s = { s with mbIdx := s.mbIdx + 1, slot := .mbHdr }) ∧
    (s.mbw ≤ s.mbIdx + 1 → s.sliceIdx + 1 < s.slices →
      nextMacroblock s = { s with sliceIdx := s.sliceIdx + 1, slot := .alignPad }) ∧
    (s.mbw ≤ s.mbIdx + 1 → s.slices ≤ s.sliceIdx + 1 →
      nextMacroblock s = { s with seq := .readTrailer, slot := .alignPad })

/-- R57, R185, R186, R188, R190: storing macroblock `(S, M)` with a bijective `MBMAP` writes each of
its 256 pixels, R, G and B at the three addresses of its place, every other raster byte unchanged, and no other state. The byte order is decision D24 (log 16). -/
def Obligations.MacroblockStoreWritesItsPixelsOnly : Prop :=
  ∀ s t : State, s.cfg.mbmap.toList.Nodup → s.RasterInv → storeMacroblock s = some t →
    (∀ j : Fin 256,
      t.rasterByte (pixelAddress s.width (pixelX s j) (pixelY s j)) = some (pixelOf s j).1 ∧
      t.rasterByte (pixelAddress s.width (pixelX s j) (pixelY s j) + 1) = some (pixelOf s j).2.1 ∧
      t.rasterByte (pixelAddress s.width (pixelX s j) (pixelY s j) + 2) = some (pixelOf s j).2.2) ∧
    (∀ a : Nat,
      (∀ j : Fin 256, a < pixelAddress s.width (pixelX s j) (pixelY s j) ∨
        pixelAddress s.width (pixelX s j) (pixelY s j) + 2 < a) →
      t.rasterByte a = s.rasterByte a) ∧
    t = { s with raster := t.raster }

/-- R191 (derived there): with the maps of R40 and R41, the pixel at local row `y`, column `x` of macroblock `(S, M)` is
the colour conversion of the luma sample of its quadrant and of the chroma samples at half its coordinates. The maps and
the conversion are `REF` and decision D23 (log 1, log 16). -/
def Obligations.PixelIsTheConvertedSampleOfItsPlace : Prop :=
  ∀ (s t : State) (y x : Fin 16), s.cfg.mbmap = Config.mbmapRef → s.cfg.chromamap = Config.chromamapRef →
    s.RasterInv → storeMacroblock s = some t →
    let a := pixelAddress s.width (16 * s.mbIdx + x.val) (16 * s.sliceIdx + y.val)
    let rgb := csc s.cfg
      ((s.spat[2 * (y.val / 8) + x.val / 8]'(by omega))[8 * (y.val % 8) + x.val % 8]'(by omega))
      ((s.spat[4])[8 * (y.val / 2) + x.val / 2]'(by omega))
      ((s.spat[5])[8 * (y.val / 2) + x.val / 2]'(by omega))
    t.rasterByte a = some rgb.1 ∧ t.rasterByte (a + 1) = some rgb.2.1 ∧ t.rasterByte (a + 2) = some rgb.2.2

/-- R124: each first-class code (RUN.0 to RUN.6), inside `LIMIT`, is consumed and adds its run value to `IDX`; nothing else
changes. With the `REF` codes (log 1) the lengths are those of R78's table. -/
def Obligations.RunCodesComplete : Prop :=
  ∀ (s : State) (x2 : BitVec 1) (x3 : BitVec 2) (x4 : BitVec 3) (x5 : BitVec 4) (x6 : BitVec 5),
    (s.pos + s.elementLength .run0 ≤ s.limit →
      exec .run0 s = .next { s with pos := s.pos + s.elementLength .run0, slot := .level }) ∧
    (s.pos + s.elementLength .run1 ≤ s.limit →
      exec .run1 s = .next { s with pos := s.pos + s.elementLength .run1, idx := s.idx + 1, slot := .level }) ∧
    (s.pos + s.elementLength (.run2 x2) ≤ s.limit →
      exec (.run2 x2) s = .next { s with
        pos := s.pos + s.elementLength (.run2 x2), idx := s.idx + (2 + x2.toNat), slot := .level }) ∧
    (s.pos + s.elementLength (.run3 x3) ≤ s.limit →
      exec (.run3 x3) s = .next { s with
        pos := s.pos + s.elementLength (.run3 x3), idx := s.idx + (4 + x3.toNat), slot := .level }) ∧
    (s.pos + s.elementLength (.run4 x4) ≤ s.limit →
      exec (.run4 x4) s = .next { s with
        pos := s.pos + s.elementLength (.run4 x4), idx := s.idx + (8 + x4.toNat), slot := .level }) ∧
    (s.pos + s.elementLength (.run5 x5) ≤ s.limit →
      exec (.run5 x5) s = .next { s with
        pos := s.pos + s.elementLength (.run5 x5), idx := s.idx + (16 + x5.toNat), slot := .level }) ∧
    (s.pos + s.elementLength (.run6 x6) ≤ s.limit →
      exec (.run6 x6) s = .next { s with
        pos := s.pos + s.elementLength (.run6 x6), idx := s.idx + (32 + x6.toNat), slot := .level }) ∧
    (s.cfg.refCodes →
      s.elementLength .run0 = 1 ∧ s.elementLength .run1 = 2 ∧ s.elementLength (.run2 x2) = 4 ∧
      s.elementLength (.run3 x3) = 6 ∧ s.elementLength (.run4 x4) = 8 ∧ s.elementLength (.run5 x5) = 10 ∧
      s.elementLength (.run6 x6) = 12)

/-- R125, R127, R152: each level code (LEVEL.0, LEVEL.2 to LEVEL.7: the elements `levelOf` lists), inside `LIMIT` and at a
scan index up to 63, is consumed and places its level, scaled, at the raster position of the scan index, and the index
grows by 1; nothing else changes. With the `REF` codes (log 1) the lengths are those of R79's table. -/
def Obligations.LevelCodesComplete : Prop :=
  ∀ (i : Instr) (len : Nat) (v : Int) (s : State) (h : s.idx < 64), i.levelOf = some (len, v) →
    (s.pos + s.elementLength i ≤ s.limit →
      exec i s = .next { s with
        pos := s.pos + s.elementLength i, idx := s.idx + 1, slot := .run
        coef := s.coef.set (s.cfg.zigzag[s.idx]).val (v * (s.cfg.iquant[s.cfg.zigzag[s.idx]] : Int))
          (s.cfg.zigzag[s.idx]).isLt }) ∧
    (s.cfg.refCodes → s.elementLength i = len)

/-- R128: a level code consumed at a scan index past 63 raises `TruncatedBlock`, with `pos` after it and `COEF` as it was.
The exact condition is decision D18 (log 15). -/
def Obligations.LevelPastTheLastCoefficientRaises : Prop :=
  ∀ (i : Instr) (len : Nat) (v : Int) (s : State), i.levelOf = some (len, v) → 64 ≤ s.idx →
    s.pos + s.elementLength i ≤ s.limit →
    exec i s = .next { s with
      pos := s.pos + s.elementLength i, err := .truncatedBlock, failPos := s.pos + s.elementLength i, seq := .failed }

/-- R129, R250: a reserved run or level pattern raises `TruncatedBlock` and is not consumed. This is decision D17
(log 15). -/
def Obligations.ReservedPatternsRaiseWithoutConsuming : Prop :=
  ∀ s : State,
    exec .runReserved s = .next { s with err := .truncatedBlock, failPos := s.pos, seq := .failed } ∧
    exec .levelReserved s = .next { s with err := .truncatedBlock, failPos := s.pos, seq := .failed }

/-- R111, R130, R247: inside a block, a DC field, a run, level or EOB code that ends past `LIMIT` raises
`TruncatedBlock` with `pos` after it, and neither `IDX` nor a coefficient is written (for DC the block is already
cleared). Decision D12 (log 13). -/
def Obligations.BlockCodesCutOffAreTruncatedBlock : Prop :=
  ∀ (i : Instr) (len : Nat) (s : State),
    (∀ v : BitVec 10, s.limit < s.pos + 10 →
      exec (.dc v) s = .next (raise .truncatedBlock { s with pos := s.pos + 10, coef := zeroBlock })) ∧
    (s.limit < s.pos + s.elementLength .eob →
      exec .eob s = .next (raise .truncatedBlock { s with pos := s.pos + s.elementLength .eob })) ∧
    (∀ r : Nat, i.runOf = some (len, r) → s.limit < s.pos + s.elementLength i →
      exec i s = .next (raise .truncatedBlock { s with pos := s.pos + s.elementLength i })) ∧
    (∀ v : Int, i.levelOf = some (len, v) → s.limit < s.pos + s.elementLength i →
      exec i s = .next (raise .truncatedBlock { s with pos := s.pos + s.elementLength i }))

/-! ### The arithmetic units -/

/-- R151: `DEQ.DC(dc)` writes `dc * IQUANT[0]` to `COEF[0]` and nothing else; the result is never negative and at most
`1023 * IQUANT[0]`, 3069 under `REF`; `dc = 340` gives 1020 under `REF`. -/
def Obligations.DequantizedDcIsTheProduct : Prop :=
  ∀ (v : BitVec 10) (s : State),
    deqDc v s = { s with coef := s.coef.set 0 ((v.toNat : Int) * (s.cfg.iquant[0] : Int)) } ∧
    0 ≤ (deqDc v s).coef[0] ∧ (deqDc v s).coef[0] ≤ 1023 * (s.cfg.iquant[0] : Int) ∧
    (s.cfg.iquant = Config.iquantRef → (deqDc v s).coef[0] ≤ 3069 ∧ (deqDc 340 s).coef[0] = 1020)

/-- R152: `DEQ.AC(idx, level)` writes `level * IQUANT[p]` to `COEF[p]`, `p = ZIGZAG[idx]`, and nothing else; the product
has the sign of the level and is never 0; under `REF`, `idx = 3` and `level = -5` write -35 to `COEF[16]`. -/
def Obligations.DequantizedAcIsTheProduct : Prop :=
  ∀ (i : Fin 64) (v : Int) (s : State), s.cfg.wf → v ≠ 0 →
    deqAc i v s = { s with
      coef := s.coef.set (s.cfg.zigzag[i]).val (v * (s.cfg.iquant[s.cfg.zigzag[i]] : Int)) (s.cfg.zigzag[i]).isLt } ∧
    (deqAc i v s).coef[s.cfg.zigzag[i]] = v * (s.cfg.iquant[s.cfg.zigzag[i]] : Int) ∧
    (0 < (deqAc i v s).coef[s.cfg.zigzag[i]] ↔ 0 < v) ∧ (deqAc i v s).coef[s.cfg.zigzag[i]] ≠ 0 ∧
    (s.cfg.zigzag = Config.zigzagRef → s.cfg.iquant = Config.iquantRef → (deqAc 3 (-5) s).coef[16] = -35)

/-- R166: `DESCALE(v, n)` is `v / 2^n` rounded to nearest, ties towards plus infinity, for negative `v` too; with the
spec's five examples. -/
def Obligations.DescaleRoundsToNearestTiesUp : Prop :=
  (∀ (v : Int) (n : Nat), 1 ≤ n →
    2 ^ n * descale v n ≤ v + 2 ^ (n - 1) ∧ v + 2 ^ (n - 1) < 2 ^ n * (descale v n + 1)) ∧
  descale 6144 12 = 2 ∧ descale (-6144) 12 = -1 ∧ descale (-6145) 12 = -2 ∧ descale 2047 12 = 0 ∧ descale 2048 12 = 1

/-- R163: the kernel of `REF` is the linear map of the unit responses the spec tabulates. The constants and the butterfly
are `REF` (log 1). -/
def Obligations.KernelIsItsUnitResponseTable : Prop :=
  ∀ x : Lane,
    k8 Config.ref x = #v[
      8192*x[0] + 11363*x[1] + 10703*x[2] + 9633*x[3] + 8192*x[4] + 6437*x[5] + 4433*x[6] + 2260*x[7],
      8192*x[0] + 9633*x[1] + 4433*x[2] - 2259*x[3] - 8192*x[4] - 11362*x[5] - 10704*x[6] - 6436*x[7],
      8192*x[0] + 6437*x[1] - 4433*x[2] - 11362*x[3] - 8192*x[4] + 2261*x[5] + 10704*x[6] + 9633*x[7],
      8192*x[0] + 2260*x[1] - 10703*x[2] - 6436*x[3] + 8192*x[4] + 9633*x[5] - 4433*x[6] - 11363*x[7],
      8192*x[0] - 2260*x[1] - 10703*x[2] + 6436*x[3] + 8192*x[4] - 9633*x[5] - 4433*x[6] + 11363*x[7],
      8192*x[0] - 6437*x[1] - 4433*x[2] + 11362*x[3] - 8192*x[4] - 2261*x[5] + 10704*x[6] - 9633*x[7],
      8192*x[0] - 9633*x[1] + 4433*x[2] + 2259*x[3] - 8192*x[4] + 11362*x[5] - 10704*x[6] + 6436*x[7],
      8192*x[0] - 11363*x[1] + 10703*x[2] - 9633*x[3] + 8192*x[4] - 6437*x[5] + 4433*x[6] - 2260*x[7]]

/-- R167 (derived there): the DC fast path is bit-identical. A column with only its first entry nonzero becomes that entry
times `2^PASS1_BITS` in pass 1, and a row with only its first entry nonzero becomes the rounded shift of that entry in pass
2, for every configuration that meets the spec's constraints. -/
def Obligations.DcFastPathIsBitIdentical : Prop :=
  ∀ (c : Cfg) (b : Block), c.wf →
    (∀ j : Fin 8, (∀ r : Fin 8, r ≠ 0 → b[8 * r.val + j.val] = 0) →
      ∀ r : Fin 8, (pass1 c b)[8 * r.val + j.val] = b[j.val] * 2 ^ c.pass1Bits) ∧
    (∀ r : Fin 8, (∀ j : Fin 8, j ≠ 0 → b[8 * r.val + j.val] = 0) →
      ∀ j : Fin 8, (pass2 c b)[8 * r.val + j.val] = (b[8 * r.val] + 2 ^ (c.pass1Bits + 2)) / 2 ^ (c.pass1Bits + 3))

/-- R168 (derived there): under `REF` a block with only a DC coefficient `d` becomes 64 equal samples `(d + 4) >> 3`. -/
def Obligations.DcOnlyBlockIsFlat : Prop :=
  ∀ (d : Int) (i : Fin 64),
    (pass1 Config.ref (zeroBlock.set 0 d))[i] = (if i.val % 8 = 0 then 2 * d else 0) ∧
    (pass2 Config.ref (pass1 Config.ref (zeroBlock.set 0 d)))[i] = (d + 4) / 8

/-- R188, R189: the three channels are the clamped sums of the spec, for every luma and chroma sample and every `CSC_ROUND`;
neutral chroma gives three equal channels, the clamped conversion of the luma sample; the clamp is 0 below 0, 255 above 255
and the value in between; and the spec's examples. The assignment of the coefficients is `REF` and decision D21 (log 1). -/
def Obligations.NeutralChromaIsGray : Prop :=
  (∀ (c : Cfg) (y cb cr : Int),
    csc c y cb cr =
      (clamp255 ((298 * (y - 16) + 409 * (cr - 128) + (c.cscRound : Int)) / 256),
       clamp255 ((298 * (y - 16) - 100 * (cb - 128) - 208 * (cr - 128) + (c.cscRound : Int)) / 256),
       clamp255 ((298 * (y - 16) + 516 * (cb - 128) + (c.cscRound : Int)) / 256))) ∧
  (∀ (c : Cfg) (y : Int),
    let g := clamp255 ((298 * (y - 16) + (c.cscRound : Int)) / 256)
    csc c y 128 128 = (g, g, g)) ∧
  (∀ v : Int, (v < 0 → (clamp255 v).toNat = 0) ∧ (255 < v → (clamp255 v).toNat = 255) ∧
    (0 ≤ v → v ≤ 255 → ((clamp255 v).toNat : Int) = v)) ∧
  csc Config.ref 81 90 240 = (255, 0, 0) ∧ csc Config.ref 145 54 34 = (0, 255, 1) ∧
  csc Config.ref 41 240 110 = (0, 0, 255) ∧ csc Config.ref 100 300 (-20) = (0, 151, 255)

/-! ### The host's side -/

/-- R210, R225, R251, R279: nothing is delivered while a call runs; a hard error delivers its kind and `FAIL_POS` and no
raster; `Done` delivers the frame, marked suspect with `BadTrailer`. `START` on a running instance and a change of the
buffer during a call are refused (decisions D35, D40), and otherwise, on a fresh instance too (R270), `START` succeeds and
gives the state of the start of a call: the configuration and the clock count kept, the buffer the given bytes, `LEN` their
number, the call begun, and every other field as after reset. Before the first `START` nothing executes and nothing is
delivered, under every configuration (R10), of which `Sys2Proof.core` takes `REF` (log 3). The codes
of `STATUS` tell its values apart, with any `ERRCODE` that does (R10 P19, R27; log 24), and under `REF` are those of D30. That START so writes the registers that R44 leaves unspecified is the model's choice (log 5, log 17). -/
def Obligations.HostSeesOnlyTheResult : Prop :=
  (∀ s : State, s.running = true → callResult s = none) ∧
  (∀ s : State, s.seq = .failed → callResult s = some (.error s.err s.failPos)) ∧
  (∀ s : State, s.seq = .done → s.err = .badTrailer →
    callResult s = some (.suspect s.width s.height (rasterBytes s) s.decodeSeconds)) ∧
  (∀ s : State, s.seq = .done → s.err ≠ .badTrailer →
    callResult s = some (.ok s.width s.height (rasterBytes s) s.decodeSeconds s.earlyEos)) ∧
  (∀ (s : State) (bytes : List Byte) (a : Nat) (b : Byte), s.running = true →
    hostStart bytes s = .refused .startWhileRunning ∧ hostWriteInput a b s = .refused .bufferChangedDuringCall) ∧
  (∀ (s : State) (bytes : List Byte), s.running = false →
    hostStart bytes s = .next (atStart s.cfg s.clockDraws bytes) ∧
    atStart s.cfg s.clockDraws bytes = { State.resetOf s.cfg with
      buf := Memory.ofBytes 0 0 bytes, len := bytes.length, started := true
      clockDraws := s.clockDraws } ∧
    (atStart s.cfg s.clockDraws bytes).running = true ∧
    ∀ k, Memory.read 0 (atStart s.cfg s.clockDraws bytes).buf k = bytes.getD k 0) ∧
  (∀ (c : Cfg) (bytes : List Byte), hostStart bytes (State.resetOf c) = .next (atStart c 0 bytes)) ∧
  (∀ (c : Cfg) (k : Nat), Host.Core.run (machineOf c) k (State.resetOf c) = .next (State.resetOf c)) ∧
  (∀ c : Cfg, callResult (State.resetOf c) = none) ∧
  (∀ s t : State, s.cfg = t.cfg → s.cfg.errCodesWf → s.statusCode = t.statusCode → s.status = t.status) ∧
  (∀ s : State, s.statusCode.2 = 0 ∨ s.statusCode.2 ∈ s.cfg.errCode.toList) ∧
  [Err.noError, .truncatedInput, .invalidHeader, .unsupportedMacroblock, .invalidDescriptor, .badSliceMarker, .badTrailer,
    .truncatedBlock].map (Err.code Config.ref) = [0, 1, 2, 3, 4, 5, 6, 7] ∧
  State.reset = State.resetOf Config.ref ∧ Sys2Proof.core = machineOf Config.ref
end

