-- ==== Sys2Proof/Laws/Codes.lean ====
section
/-! SUPPORT. What a lookup in a code table can answer; that every table over windows is held; the reference tables. -/

namespace Sys2Proof

variable {α : Type}

/-- The table built from a function holds its value at every window: no table over `n` bits is left out (R39). -/
theorem CodeTable.lookup_ofTable (n : Nat) (f : Bits → Option α) (w : Bits) (h : w.length = n) :
    (CodeTable.ofTable n f).lookup w = f w := by
  induction n generalizing f w with
  | zero =>
    obtain rfl := List.length_eq_zero_iff.mp h
    unfold CodeTable.ofTable
    split <;> simp [CodeTable.lookup, *]
  | succ n ih =>
    cases w with
    | nil => cases h
    | cons b bs =>
      have hb : bs.length = n := by simpa using h
      cases b <;> simp [CodeTable.ofTable, CodeTable.lookup, ih _ _ hb]

/-- Every entry a lookup answers is in the list of the table's codes, with bits that the window begins with. -/
theorem CodeTable.lookup_mem_codes {t : CodeTable α} {w : Bits} {e : α} (h : t.lookup w = some e) :
    ∃ bs, (bs, e) ∈ t.codes ∧ bs <+: w := by
  induction t generalizing w with
  | reserved => cases h
  | entry e' => cases h; exact ⟨[], by simp [CodeTable.codes], List.nil_prefix⟩
  | branch zero one hz ho =>
    cases w with
    | nil => cases h
    | cons b w =>
      cases b
      · obtain ⟨bs, hm, hp⟩ := hz (by simpa [CodeTable.lookup] using h)
        exact ⟨false :: bs, by simp [CodeTable.codes, hm], by simpa using hp⟩
      · obtain ⟨bs, hm, hp⟩ := ho (by simpa [CodeTable.lookup] using h)
        exact ⟨true :: bs, by simp [CodeTable.codes, hm], by simpa using hp⟩

/-- A window that begins with the bits that lead to an entry holds it. -/
theorem CodeTable.lookup_of_mem_codes {t : CodeTable α} {bs w : Bits} {e : α} (h : (bs, e) ∈ t.codes) (hp : bs <+: w) :
    t.lookup w = some e := by
  induction t generalizing bs w with
  | reserved => simp [CodeTable.codes] at h
  | entry e' => simp [CodeTable.codes] at h; simp [CodeTable.lookup, h]
  | branch zero one hz ho =>
    simp only [CodeTable.codes, List.mem_append, List.mem_map, Prod.mk.injEq, Prod.exists] at h
    obtain ⟨w', rfl⟩ := hp
    rcases h with ⟨a, b, hm, rfl, rfl⟩ | ⟨a, b, hm, rfl, rfl⟩
    · simpa [CodeTable.lookup] using hz hm (List.prefix_append a w')
    · simpa [CodeTable.lookup] using ho hm (List.prefix_append a w')

/-- Where each entry is decided by its own code, the bits that lead to it are no longer than the code. -/
theorem CodeTable.length_le_of_decided {len : α → Nat} {t : CodeTable α} {depth : Nat} {bs : Bits} {e : α}
    (hd : CodeTable.decidedByCode len depth t = true) (h : (bs, e) ∈ t.codes) : depth + bs.length ≤ len e := by
  induction t generalizing depth bs with
  | reserved => simp [CodeTable.codes] at h
  | entry e' =>
    simp only [CodeTable.codes, List.mem_singleton, Prod.mk.injEq] at h
    obtain ⟨rfl, rfl⟩ := h
    simpa [CodeTable.decidedByCode] using hd
  | branch zero one hz ho =>
    simp only [CodeTable.decidedByCode, Bool.and_eq_true] at hd
    simp only [CodeTable.codes, List.mem_append, List.mem_map, Prod.mk.injEq, Prod.exists] at h
    rcases h with ⟨a, b, hm, rfl, rfl⟩ | ⟨a, b, hm, rfl, rfl⟩
    · have := hz hd.1 hm; simp only [List.length_cons]; omega
    · have := ho hd.2 hm; simp only [List.length_cons]; omega

/-- The code that `codeOf` gives is that of an entry with the property, and has its length. -/
theorem CodeTable.codeOf_eq_some {len : α → Nat} {p : α → Bool} {t : CodeTable α} {code : Bits}
    (h : t.codeOf len p = some code) :
    ∃ bs e, (bs, e) ∈ t.codes ∧ p e = true ∧ code.length = len e ∧ (bs.length ≤ len e → bs <+: code) := by
  simp only [CodeTable.codeOf, Option.map_eq_some_iff] at h
  obtain ⟨⟨bs, e⟩, hf, rfl⟩ := h
  refine ⟨bs, e, List.mem_of_find?_eq_some hf, List.find?_some (p := fun x : Bits × α => p x.2) hf, ?_, fun hl => ?_⟩
  · simp only [List.length_take, List.length_append, List.length_replicate]; omega
  · rw [List.take_append, List.take_of_length_le hl]
    exact List.prefix_append _ _

/-- Where each entry is decided by its own code, a window that begins with the code `codeOf` gives holds an entry with the
property, of the code's length. -/
theorem CodeTable.lookup_codeOf {len : α → Nat} {p : α → Bool} {t : CodeTable α} {code w : Bits}
    (hd : CodeTable.decidedByCode len 0 t = true) (h : t.codeOf len p = some code) (hw : code <+: w) :
    ∃ e, t.lookup w = some e ∧ p e = true ∧ len e = code.length := by
  obtain ⟨bs, e, hm, hp, hl, hpre⟩ := CodeTable.codeOf_eq_some h
  have hb := CodeTable.length_le_of_decided hd hm
  exact ⟨e, CodeTable.lookup_of_mem_codes hm ((hpre (by omega)).trans hw), hp, hl.symm⟩

/-- A window that begins with the pattern `reservedPattern` gives is reserved. -/
theorem CodeTable.lookup_reservedPattern {n : Nat} {t : CodeTable α} {pattern w : Bits}
    (h : CodeTable.reservedPattern n t = some pattern) (hl : w.length = n) (hw : pattern <+: w) : t.lookup w = none := by
  induction t generalizing n pattern w with
  | reserved => rfl
  | entry e => cases n <;> cases h
  | branch zero one hz ho =>
    cases n with
    | zero => rw [List.length_eq_zero_iff.mp hl]; rfl
    | succ n =>
      simp only [CodeTable.reservedPattern] at h
      split at h
      · rename_i bs hb
        cases h
        obtain ⟨w', rfl⟩ := hw
        simpa [CodeTable.lookup] using hz hb (by simpa using hl) (List.prefix_append bs w')
      · obtain ⟨bs, hb, rfl⟩ := Option.map_eq_some_iff.mp h
        obtain ⟨w', rfl⟩ := hw
        simpa [CodeTable.lookup] using ho hb (by simpa using hl) (List.prefix_append bs w')

/-! ### The reference tables -/

/-- Each entry of `CLZ8` is the number of leading zeros of its index (R38). -/
theorem clz8Ref_eq (b : BitVec 8) : (Config.clz8Ref[b.toNat]'b.isLt).val = clz8 b := by
  have h : ∀ i : Fin 256, (Config.clz8Ref[i]).val = clz8 (BitVec.ofFin i) := by decide +kernel
  exact h b.toFin

/-- The second-class values of `REF`, numbered by magnitude and sign, are all different. -/
theorem levTabRef_nodup : (Config.levTabRef.codes.map fun x => x.2.value).Nodup := by
  let key : LevelValue → Nat := fun v => match v with
    | .level negative m => 2 * m.val + negative.toNat + 1
    | .eob => 0
  have h : (Config.levTabRef.codes.map fun x => x.2.value).map key =
      List.range' 127 128 ++ (List.range' 63 64 ++ (List.range' 31 32 ++ (List.range' 15 16 ++ (List.range' 7 8 ++
        (List.range' 3 4 ++ [0, 1, 2]))))) := by decide +kernel
  refine List.Nodup.of_map key (h ▸ ?_)
  have r : ∀ a n, (List.range' a n).Nodup := fun _ _ => List.nodup_range'
  simp only [List.nodup_append, List.mem_append, List.mem_range'_1, List.mem_cons, List.not_mem_nil, or_false]
  refine ⟨r _ _, ⟨r _ _, ⟨r _ _, ⟨r _ _, ⟨r _ _, ⟨r _ _, by decide, ?_⟩, ?_⟩, ?_⟩, ?_⟩, ?_⟩, ?_⟩ <;>
    intro a ha b hb <;> omega

end Sys2Proof
end

