-- ==== Sys2Proof/Laws/Config.lean ====
section
/-! SUPPORT. The reference tables: what an entry of `MBMAP` and `CHROMAMAP` is, that `MBMAP` is a bijection, that the
code tables hold one prefix code for each symbol, and that `REF` and `CfgT` meet the spec's constraints. -/

namespace Sys2Proof

/-- A luma sample index is block `b`, row `r`, column `c` of the block, and both maps are given by these (R40, R41). -/
theorem mapRef_entry (i : Fin 256) : ∃ b < 4, ∃ r < 8, ∃ c < 8, i.val = 64 * b + 8 * r + c ∧
    (Config.mbmapRef[i]).val = 16 * (8 * (b / 2) + r) + 8 * (b % 2) + c ∧
    (Config.chromamapRef[i]).val = 8 * (4 * (b / 2) + r / 2) + 4 * (b % 2) + c / 2 := by
  have hi := i.isLt
  have hb : i.val / 64 = 0 ∨ i.val / 64 = 1 ∨ i.val / 64 = 2 ∨ i.val / 64 = 3 := by omega
  refine ⟨i.val / 64, by omega, i.val % 64 / 8, by omega, i.val % 8, by omega, by omega, ?_, ?_⟩
  · have e : Config.mbmapRef[i] =
        Fin.ofNat 256 (16 * (8 * (i.val / 64 / 2) + i.val % 64 / 8) + 8 * (i.val / 64 % 2) + i.val % 8) := by
      show (Vector.ofFn _)[i.val] = _
      rw [Vector.getElem_ofFn]
    rw [e, Fin.val_ofNat]
    rcases hb with h | h | h | h <;> simp only [h] <;> omega
  · have e : Config.chromamapRef[i] =
        Fin.ofNat 64 (8 * (4 * (i.val / 64 / 2) + i.val % 64 / 8 / 2) + 4 * (i.val / 64 % 2) + i.val % 8 / 2) := by
      show (Vector.ofFn _)[i.val] = _
      rw [Vector.getElem_ofFn]
    rw [e, Fin.val_ofNat]
    rcases hb with h | h | h | h <;> simp only [h] <;> omega

/-- `MBMAP` takes no value twice (R40). -/
theorem mbmapRef_nodup : Config.mbmapRef.toList.Nodup := by
  rw [List.nodup_iff_injective_get]
  intro i j h
  have hi : i.val < 256 := by have := i.isLt; simpa using this
  have hj : j.val < 256 := by have := j.isLt; simpa using this
  have h2 : Config.mbmapRef[(⟨i.val, hi⟩ : Fin 256)] = Config.mbmapRef[(⟨j.val, hj⟩ : Fin 256)] := by simpa using h
  obtain ⟨b, hb, r, hr, c, hc, e1, e2, -⟩ := mapRef_entry ⟨i.val, hi⟩
  obtain ⟨b', hb', r', hr', c', hc', e1', e2', -⟩ := mapRef_entry ⟨j.val, hj⟩
  rw [h2] at e2
  have e1 : i.val = _ := e1
  have e1' : j.val = _ := e1'
  apply Fin.ext
  rcases (by omega : b = 0 ∨ b = 1 ∨ b = 2 ∨ b = 3) with h | h | h | h <;>
    rcases (by omega : b' = 0 ∨ b' = 1 ∨ b' = 2 ∨ b' = 3) with h' | h' | h' | h' <;>
    subst h <;> subst h' <;> omega

/-- `CHROMAMAP` takes each luma sample to the chroma sample at half its row and column (R41). -/
theorem chromamapRef_is_half (i : Fin 256) :
    (Config.chromamapRef[i]).val =
      8 * ((Config.mbmapRef[i]).val / 16 / 2) + (Config.mbmapRef[i]).val % 16 / 2 := by
  obtain ⟨b, hb, r, hr, c, hc, e1, e2, e3⟩ := mapRef_entry i
  rw [e2, e3]
  rcases (by omega : b = 0 ∨ b = 1 ∨ b = 2 ∨ b = 3) with h | h | h | h <;> subst h <;> omega

/-- The code tables of `REF` hold prefix codes (R80). -/
theorem ref_codesWf : Config.ref.codesWf := ⟨by decide +kernel, by decide +kernel⟩

/-- Under `REF` each symbol has one code (R78, R79). -/
theorem ref_oneCode : Config.ref.oneCode := by
  refine ⟨by decide +kernel, ?_⟩
  show CodeTable.oneCode _ _ Config.levTabRef = true
  unfold CodeTable.oneCode
  rw [Bool.and_eq_true, decide_eq_true_iff]
  exact ⟨by decide +kernel, levTabRef_nodup⟩

/-- The `REF` code tables hold prefix codes in any configuration, one for each symbol. -/
theorem codesWf_of_refCodes {c : Cfg} (h : c.refCodes) : c.codesWf ∧ c.oneCode := by
  unfold Cfg.codesWf Cfg.oneCode
  rw [h.2.1, h.2.2]
  exact ⟨ref_codesWf, ref_oneCode⟩

/-- `REF` meets the spec's constraints (93_implementation_defined.md section 2). -/
theorem ref_wf : Config.ref.wf :=
  ⟨by decide +kernel, by decide +kernel, by decide +kernel, mbmapRef_nodup, chromamapRef_is_half,
    by decide, by decide, by decide, rfl, ref_codesWf, by decide⟩

/-- `CfgT` differs from `REF` in nothing the constraints name (R12). -/
theorem cfgT_wf : Config.cfgT.wf := ref_wf

end Sys2Proof
end

