-- ==== Sys2Proof/Laws/Decode.lean ====
section
/-! SUPPORT. Bit runs and fields: lengths, values, and the small lemmas of the decoder's helpers. -/

namespace Sys2Proof

@[simp] theorem toBits_length {n : Nat} (v : BitVec n) : (toBits v).length = n := by simp [toBits]

@[simp] theorem bitRun_length (bits : Bits) (off n : Nat) : (bitRun bits off n).length = n := by simp [bitRun]

theorem bitsToNat_append (a b : Bits) : bitsToNat (a ++ b) = bitsToNat a * 2 ^ b.length + bitsToNat b := by
  induction a with
  | nil => simp [bitsToNat]
  | cons x a ih => simp only [List.cons_append, bitsToNat, ih, List.length_append, Nat.pow_add, Nat.add_mul, Nat.mul_assoc, Nat.add_assoc]

theorem bitsToNat_lt (bits : Bits) : bitsToNat bits < 2 ^ bits.length := by
  induction bits with
  | nil => simp [bitsToNat]
  | cons x a ih =>
    have : x.toNat ≤ 1 := Bool.toNat_le x
    have h2 : x.toNat * 2 ^ a.length ≤ 1 * 2 ^ a.length := Nat.mul_le_mul_right _ this
    simp only [bitsToNat, List.length_cons, Nat.pow_succ]; omega

/-- A bit run read as a field and written out again is the run. -/
theorem toBits_ofNat_bitsToNat (bits : Bits) : toBits (BitVec.ofNat bits.length (bitsToNat bits)) = bits := by
  induction bits with
  | nil => rfl
  | cons x a ih =>
    have hlt := bitsToNat_lt a
    simp only [toBits] at ih
    simp only [toBits, List.length_cons, List.range_succ_eq_map, List.map_cons, List.map_map, bitsToNat]
    congr 1
    · simp only [BitVec.getMsbD, BitVec.getLsbD_ofNat]
      simp
      cases x
      · simp [Nat.testBit_lt_two_pow hlt]
      · simp [Nat.testBit_two_pow_add_eq, Nat.testBit_lt_two_pow hlt]
    · rw [← ih]
      rw [ih]
      conv_rhs => rw [← ih]
      apply List.map_congr_left
      intro i hi
      have hi' : i < a.length := by simpa using hi
      simp only [Function.comp, BitVec.getMsbD, BitVec.getLsbD_ofNat]
      have e1 : i + 1 < a.length + 1 := by omega
      have e2 : a.length + 1 - 1 - (i + 1) = a.length - 1 - i := by omega
      have e3 : a.length - 1 - i < a.length := by omega
      have e4 : a.length - 1 - i < a.length + 1 := by omega
      simp only [e1, e2, e3, e4, hi', decide_true, Bool.true_and]
      rw [Nat.mul_comm, Nat.testBit_two_pow_mul_add _ hlt]
      simp [e3]

/-- A field's bits give its value back. -/
theorem bitsToNat_toBits {n : Nat} (v : BitVec n) : bitsToNat (toBits v) = v.toNat := by
  have h := toBits_ofNat_bitsToNat (toBits v)
  have inj : ∀ {m : Nat} (a b : BitVec m), toBits a = toBits b → a = b := by
    intro m a b hab
    apply BitVec.eq_of_getMsbD_eq
    intro i hi
    have := congrArg (fun l => l[i]?) hab
    simpa [toBits, hi] using this
  have hlen : (toBits v).length = n := toBits_length v
  have key : BitVec.ofNat n (bitsToNat (toBits v)) = v := by
    apply inj
    have := h
    revert this
    generalize hb : toBits v = b
    rw [hb] at hlen
    subst hlen
    exact id
  have hlt : bitsToNat (toBits v) < 2 ^ n := by simpa using bitsToNat_lt (toBits v)
  rw [← congrArg BitVec.toNat key, BitVec.toNat_ofNat, Nat.mod_eq_of_lt hlt]

/-- Bits of a run that starts with another are the bits of that one, inside it. -/
theorem bitAt_append_left (a b : Bits) {k : Nat} (h : k < a.length) : bitAt (a ++ b) k = bitAt a k := by
  simp [bitAt, List.getElem?_append_left h]

theorem bitAt_append_right (a b : Bits) (k : Nat) : bitAt (a ++ b) (a.length + k) = bitAt b k := by
  simp [bitAt, List.getElem?_append_right (Nat.le_add_right a.length k)]

/-- The run read at the place where a run was put is that run. -/
theorem bitRun_append (a b c : Bits) : bitRun (a ++ (b ++ c)) a.length b.length = b := by
  apply List.ext_getElem?
  intro i
  simp only [bitRun, List.getElem?_map]
  by_cases hi : i < b.length
  · rw [List.getElem?_range hi]
    simp only [Option.map_some, bitAt_append_right, bitAt_append_left b c hi]
    simp [bitAt, hi]
  · rw [List.getElem?_eq_none (by simpa using hi), List.getElem?_eq_none (by simpa using hi)]
    rfl

/-- The field read at the place where a field was put is that field. -/
theorem field_append (a c : Bits) {n : Nat} (v : BitVec n) : field (a ++ (toBits v ++ c)) a.length n = v := by
  have h := bitRun_append a (toBits v) c
  rw [toBits_length] at h
  rw [field, h, bitsToNat_toBits]
  simp

end Sys2Proof
end

