-- ==== Sys2Proof/Laws/Memory.lean ====
section
/-! SUPPORT. The laws of byte memory: a read after a write, the canonical form that every operation keeps, and that equal
reads make equal memories. -/

namespace Sys2Proof.Machine

open Sys2Proof

@[simp] theorem Memory.read_nil (d : Byte) (k : Nat) : Memory.read d [] k = d := rfl

/-- A read after a write to the same address gives the value written. -/
@[simp] theorem Memory.read_write_same (d : Byte) (m : Memory) (k : Nat) (b : Byte)
    (hm : m.Pairwise fun x y => x.1 < y.1) : Memory.read d (Memory.write d m k b) k = b := by
  have absent : ∀ l : Memory, (∀ x ∈ l, k < x.1) → Memory.read d l k = d := by
    intro l hl
    induction l with
    | nil => rfl
    | cons x l ih =>
      obtain ⟨a, v⟩ := x
      have h1 := hl (a, v) (by simp)
      have h2 := ih fun y hy => hl y (by simp [hy])
      simp only [Memory.read]
      rw [if_neg (by simp at h1; omega), h2]
  induction m with
  | nil => simp only [Memory.write]; split <;> simp_all [Memory.read]
  | cons x m ih =>
    obtain ⟨a, v⟩ := x
    rw [List.pairwise_cons] at hm
    have hlater : ∀ y ∈ m, a < y.1 := hm.1
    simp only [Memory.write]
    split
    · rename_i hk
      split
      · rename_i hb
        rw [hb]
        exact absent _ fun y hy => by
          rcases List.mem_cons.1 hy with rfl | hy
          · exact hk
          · exact Nat.lt_trans hk (hlater y hy)
      · simp [Memory.read]
    · split
      · rename_i h1 h2
        split
        · rename_i hb
          rw [hb]
          exact absent _ fun y hy => by have := hlater y hy; omega
        · simp [Memory.read]
      · rename_i h1 h2
        simp only [Memory.read]
        rw [if_neg (by omega)]
        exact ih hm.2

/-- A write leaves every other address alone. -/
theorem Memory.read_write_other (d : Byte) (m : Memory) (k : Nat) (b : Byte) (j : Nat) (hj : j ≠ k) :
    Memory.read d (Memory.write d m k b) j = Memory.read d m j := by
  induction m with
  | nil =>
    simp only [Memory.write]
    split
    · rfl
    · simp only [Memory.read]; rw [if_neg (Ne.symm hj)]
  | cons x m ih =>
    obtain ⟨a, v⟩ := x
    simp only [Memory.write]
    split
    · split
      · rfl
      · simp only [Memory.read]; rw [if_neg (Ne.symm hj)]
    · split
      · rename_i h1 h2
        split
        · simp only [Memory.read]; rw [if_neg (by omega)]
        · simp only [Memory.read]; rw [if_neg (by omega), if_neg (by omega)]
      · simp only [Memory.read]
        split
        · rfl
        · exact ih

theorem Memory.mem_write {d : Byte} {m : Memory} {k : Nat} {b : Byte} {x : Host.Cell}
    (hx : x ∈ Memory.write d m k b) : x ∈ m ∨ x = (k, b) ∧ b ≠ d := by
  induction m with
  | nil =>
    simp only [Memory.write] at hx
    split at hx
    · exact absurd hx (by simp)
    · rename_i hb; exact .inr ⟨by simpa using hx, hb⟩
  | cons y m ih =>
    obtain ⟨a, v⟩ := y
    simp only [Memory.write] at hx
    split at hx
    · split at hx
      · exact .inl hx
      · rename_i hb
        rcases List.mem_cons.1 hx with rfl | hx
        · exact .inr ⟨rfl, hb⟩
        · exact .inl hx
    · split at hx
      · split at hx
        · exact .inl (List.mem_cons_of_mem _ hx)
        · rename_i hb
          rcases List.mem_cons.1 hx with rfl | hx
          · exact .inr ⟨rfl, hb⟩
          · exact .inl (List.mem_cons_of_mem _ hx)
      · rcases List.mem_cons.1 hx with rfl | hx
        · exact .inl (by simp)
        · exact (ih hx).imp (List.mem_cons_of_mem _) id

/-- A write keeps the canonical form. -/
theorem Memory.write_wf {d : Byte} {m : Memory} (k : Nat) (b : Byte) (hm : Memory.wf d m) :
    Memory.wf d (Memory.write d m k b) := by
  refine ⟨?_, fun x hx => ?_⟩
  · have hp := hm.1
    clear hm
    induction m with
    | nil => simp only [Memory.write]; split <;> simp
    | cons y m ih =>
      obtain ⟨a, v⟩ := y
      have hc := List.pairwise_cons.1 hp
      simp only [Memory.write]
      split
      · rename_i hk
        split
        · exact hp
        · refine List.pairwise_cons.2 ⟨fun z hz => ?_, hp⟩
          rcases List.mem_cons.1 hz with rfl | hz
          · exact hk
          · exact Nat.lt_trans hk (hc.1 z hz)
      · split
        · rename_i h1 h2
          split
          · exact hc.2
          · exact List.pairwise_cons.2 ⟨fun z hz => by have := hc.1 z hz; simp at this ⊢; omega, hc.2⟩
        · rename_i h1 h2
          refine List.pairwise_cons.2 ⟨fun z hz => ?_, ih hc.2⟩
          rcases Memory.mem_write hz with hz | ⟨rfl, _⟩
          · exact hc.1 z hz
          · simp; omega
  · rcases Memory.mem_write hx with hx | ⟨rfl, hb⟩
    · exact hm.2 x hx
    · exact hb

/-- A write below a bound keeps every listed address below it. -/
theorem Memory.write_below {d : Byte} {m : Memory} {n : Nat} (k : Nat) (b : Byte) (hm : Memory.below n m) (hk : k < n) :
    Memory.below n (Memory.write d m k b) := by
  intro x hx
  rcases Memory.mem_write hx with hx | ⟨rfl, _⟩
  · exact hm x hx
  · exact hk

theorem Memory.ofBytes_addresses {d : Byte} {bs : List Byte} {a : Nat} :
    ∀ x ∈ Memory.ofBytes d a bs, a ≤ x.1 ∧ x.1 < a + bs.length ∧ x.2 ≠ d := by
  induction bs generalizing a with
  | nil => simp [Memory.ofBytes]
  | cons b bs ih =>
    intro x hx
    simp only [Memory.ofBytes] at hx
    split at hx
    · have := ih x hx; simp only [List.length_cons]; exact ⟨by omega, by omega, this.2.2⟩
    · rename_i hb
      rcases List.mem_cons.1 hx with rfl | hx
      · simp [hb]
      · have := ih x hx; simp only [List.length_cons]; exact ⟨by omega, by omega, this.2.2⟩

/-- The memory made from bytes is in canonical form. -/
theorem Memory.ofBytes_wf (d : Byte) (a : Nat) (bs : List Byte) : Memory.wf d (Memory.ofBytes d a bs) := by
  refine ⟨?_, fun x hx => (Memory.ofBytes_addresses x hx).2.2⟩
  induction bs generalizing a with
  | nil => simp [Memory.ofBytes]
  | cons b bs ih =>
    simp only [Memory.ofBytes]
    split
    · exact ih (a + 1)
    · refine List.pairwise_cons.2 ⟨fun x hx => ?_, ih (a + 1)⟩
      have := (Memory.ofBytes_addresses x hx).1
      simp; omega

/-- Reading the memory made from bytes gives the bytes back. -/
theorem Memory.read_ofBytes (d : Byte) (a : Nat) (bs : List Byte) (k : Nat) :
    Memory.read d (Memory.ofBytes d a bs) k = if a ≤ k then bs.getD (k - a) d else d := by
  induction bs generalizing a with
  | nil => simp [Memory.ofBytes]
  | cons b bs ih =>
    simp only [Memory.ofBytes]
    by_cases hk : a = k
    · subst hk
      split
      · rename_i hb; rw [ih, if_neg (by omega)]; simp [hb]
      · simp [Memory.read]
    · have key : Memory.read d (Memory.ofBytes d (a + 1) bs) k = if a ≤ k then (b :: bs).getD (k - a) d else d := by
        rw [ih]
        by_cases h : a ≤ k
        · rw [if_pos h, if_pos (by omega)]
          obtain ⟨j, rfl⟩ : ∃ j, k = a + 1 + j := ⟨k - (a + 1), by omega⟩
          rw [show a + 1 + j - (a + 1) = j by omega, show a + 1 + j - a = j + 1 by omega]
          rfl
        · rw [if_neg h, if_neg (by omega)]
      split
      · exact key
      · simp only [Memory.read]; rw [if_neg hk]; exact key

/-- The pixel store keeps the canonical form. -/
theorem storePixel_wf {d : Byte} {m : Memory} (w x y : Nat) (rgb : Byte × Byte × Byte) (hm : Memory.wf d m) :
    Memory.wf d (storePixel d w x y rgb m) :=
  Memory.write_wf _ _ (Memory.write_wf _ _ (Memory.write_wf _ _ hm))

/-- The pixel store writes its three bytes and no other. -/
theorem read_storePixel {d : Byte} {m : Memory} (w x y : Nat) (rgb : Byte × Byte × Byte) (hm : Memory.wf d m) (k : Nat) :
    Memory.read d (storePixel d w x y rgb m) k =
      if k = pixelAddress w x y then rgb.1 else if k = pixelAddress w x y + 1 then rgb.2.1
      else if k = pixelAddress w x y + 2 then rgb.2.2 else Memory.read d m k := by
  have h1 := Memory.write_wf (pixelAddress w x y) rgb.1 hm
  have h2 := Memory.write_wf (pixelAddress w x y + 1) rgb.2.1 h1
  simp only [storePixel]
  split
  · rename_i h; subst h
    rw [Memory.read_write_other _ _ _ _ _ (by omega), Memory.read_write_other _ _ _ _ _ (by omega),
      Memory.read_write_same _ _ _ _ hm.1]
  · split
    · rename_i _ h; subst h
      rw [Memory.read_write_other _ _ _ _ _ (by omega), Memory.read_write_same _ _ _ _ h1.1]
    · split
      · rename_i _ _ h; subst h
        rw [Memory.read_write_same _ _ _ _ h2.1]
      · rw [Memory.read_write_other _ _ _ _ _ (by assumption), Memory.read_write_other _ _ _ _ _ (by assumption),
          Memory.read_write_other _ _ _ _ _ (by assumption)]

end Sys2Proof.Machine
end

