-- ==== Sys2Proof/Laws/State.lean ====
section
/-! SUPPORT. One lemma per field per named update of the state, so that no proof unfolds a record update. -/

namespace Sys2Proof.Machine

open Sys2Proof

/-! ### bcSkip -/

@[simp] theorem bcSkip_cfg (n : Nat) (s : State) : (bcSkip n s).cfg = s.cfg := rfl
@[simp] theorem bcSkip_buf (n : Nat) (s : State) : (bcSkip n s).buf = s.buf := rfl
@[simp] theorem bcSkip_len (n : Nat) (s : State) : (bcSkip n s).len = s.len := rfl
@[simp] theorem bcSkip_started (n : Nat) (s : State) : (bcSkip n s).started = s.started := rfl
@[simp] theorem bcSkip_pos (n : Nat) (s : State) : (bcSkip n s).pos = s.pos + n := rfl
@[simp] theorem bcSkip_seq (n : Nat) (s : State) : (bcSkip n s).seq = s.seq := rfl
@[simp] theorem bcSkip_slot (n : Nat) (s : State) : (bcSkip n s).slot = s.slot := rfl
@[simp] theorem bcSkip_err (n : Nat) (s : State) : (bcSkip n s).err = s.err := rfl
@[simp] theorem bcSkip_failPos (n : Nat) (s : State) : (bcSkip n s).failPos = s.failPos := rfl
@[simp] theorem bcSkip_fmt (n : Nat) (s : State) : (bcSkip n s).fmt = s.fmt := rfl
@[simp] theorem bcSkip_scale (n : Nat) (s : State) : (bcSkip n s).scale = s.scale := rfl
@[simp] theorem bcSkip_width (n : Nat) (s : State) : (bcSkip n s).width = s.width := rfl
@[simp] theorem bcSkip_height (n : Nat) (s : State) : (bcSkip n s).height = s.height := rfl
@[simp] theorem bcSkip_slices (n : Nat) (s : State) : (bcSkip n s).slices = s.slices := rfl
@[simp] theorem bcSkip_mbw (n : Nat) (s : State) : (bcSkip n s).mbw = s.mbw := rfl
@[simp] theorem bcSkip_sliceIdx (n : Nat) (s : State) : (bcSkip n s).sliceIdx = s.sliceIdx := rfl
@[simp] theorem bcSkip_mbIdx (n : Nat) (s : State) : (bcSkip n s).mbIdx = s.mbIdx := rfl
@[simp] theorem bcSkip_blockIdx (n : Nat) (s : State) : (bcSkip n s).blockIdx = s.blockIdx := rfl
@[simp] theorem bcSkip_desc (n : Nat) (s : State) : (bcSkip n s).desc = s.desc := rfl
@[simp] theorem bcSkip_coef (n : Nat) (s : State) : (bcSkip n s).coef = s.coef := rfl
@[simp] theorem bcSkip_idx (n : Nat) (s : State) : (bcSkip n s).idx = s.idx := rfl
@[simp] theorem bcSkip_ws (n : Nat) (s : State) : (bcSkip n s).ws = s.ws := rfl
@[simp] theorem bcSkip_spat (n : Nat) (s : State) : (bcSkip n s).spat = s.spat := rfl
@[simp] theorem bcSkip_raster (n : Nat) (s : State) : (bcSkip n s).raster = s.raster := rfl
@[simp] theorem bcSkip_earlyEos (n : Nat) (s : State) : (bcSkip n s).earlyEos = s.earlyEos := rfl
@[simp] theorem bcSkip_decodeSeconds (n : Nat) (s : State) : (bcSkip n s).decodeSeconds = s.decodeSeconds := rfl
@[simp] theorem bcSkip_clockDraws (n : Nat) (s : State) : (bcSkip n s).clockDraws = s.clockDraws := rfl

/-! ### raise -/

@[simp] theorem raise_cfg (k : Err) (s : State) : (raise k s).cfg = s.cfg := rfl
@[simp] theorem raise_buf (k : Err) (s : State) : (raise k s).buf = s.buf := rfl
@[simp] theorem raise_len (k : Err) (s : State) : (raise k s).len = s.len := rfl
@[simp] theorem raise_started (k : Err) (s : State) : (raise k s).started = s.started := rfl
@[simp] theorem raise_pos (k : Err) (s : State) : (raise k s).pos = s.pos := rfl
@[simp] theorem raise_seq (k : Err) (s : State) : (raise k s).seq = .failed := rfl
@[simp] theorem raise_slot (k : Err) (s : State) : (raise k s).slot = s.slot := rfl
@[simp] theorem raise_err (k : Err) (s : State) : (raise k s).err = k := rfl
@[simp] theorem raise_failPos (k : Err) (s : State) : (raise k s).failPos = s.pos := rfl
@[simp] theorem raise_fmt (k : Err) (s : State) : (raise k s).fmt = s.fmt := rfl
@[simp] theorem raise_scale (k : Err) (s : State) : (raise k s).scale = s.scale := rfl
@[simp] theorem raise_width (k : Err) (s : State) : (raise k s).width = s.width := rfl
@[simp] theorem raise_height (k : Err) (s : State) : (raise k s).height = s.height := rfl
@[simp] theorem raise_slices (k : Err) (s : State) : (raise k s).slices = s.slices := rfl
@[simp] theorem raise_mbw (k : Err) (s : State) : (raise k s).mbw = s.mbw := rfl
@[simp] theorem raise_sliceIdx (k : Err) (s : State) : (raise k s).sliceIdx = s.sliceIdx := rfl
@[simp] theorem raise_mbIdx (k : Err) (s : State) : (raise k s).mbIdx = s.mbIdx := rfl
@[simp] theorem raise_blockIdx (k : Err) (s : State) : (raise k s).blockIdx = s.blockIdx := rfl
@[simp] theorem raise_desc (k : Err) (s : State) : (raise k s).desc = s.desc := rfl
@[simp] theorem raise_coef (k : Err) (s : State) : (raise k s).coef = s.coef := rfl
@[simp] theorem raise_idx (k : Err) (s : State) : (raise k s).idx = s.idx := rfl
@[simp] theorem raise_ws (k : Err) (s : State) : (raise k s).ws = s.ws := rfl
@[simp] theorem raise_spat (k : Err) (s : State) : (raise k s).spat = s.spat := rfl
@[simp] theorem raise_raster (k : Err) (s : State) : (raise k s).raster = s.raster := rfl
@[simp] theorem raise_earlyEos (k : Err) (s : State) : (raise k s).earlyEos = s.earlyEos := rfl
@[simp] theorem raise_decodeSeconds (k : Err) (s : State) : (raise k s).decodeSeconds = s.decodeSeconds := rfl
@[simp] theorem raise_clockDraws (k : Err) (s : State) : (raise k s).clockDraws = s.clockDraws := rfl

/-! ### markBadTrailer -/

@[simp] theorem markBadTrailer_cfg (s : State) : (markBadTrailer s).cfg = s.cfg := rfl
@[simp] theorem markBadTrailer_buf (s : State) : (markBadTrailer s).buf = s.buf := rfl
@[simp] theorem markBadTrailer_len (s : State) : (markBadTrailer s).len = s.len := rfl
@[simp] theorem markBadTrailer_started (s : State) : (markBadTrailer s).started = s.started := rfl
@[simp] theorem markBadTrailer_pos (s : State) : (markBadTrailer s).pos = s.pos := rfl
@[simp] theorem markBadTrailer_seq (s : State) : (markBadTrailer s).seq = s.seq := rfl
@[simp] theorem markBadTrailer_slot (s : State) : (markBadTrailer s).slot = s.slot := rfl
@[simp] theorem markBadTrailer_err (s : State) : (markBadTrailer s).err = .badTrailer := rfl
@[simp] theorem markBadTrailer_failPos (s : State) : (markBadTrailer s).failPos = s.pos := rfl
@[simp] theorem markBadTrailer_fmt (s : State) : (markBadTrailer s).fmt = s.fmt := rfl
@[simp] theorem markBadTrailer_scale (s : State) : (markBadTrailer s).scale = s.scale := rfl
@[simp] theorem markBadTrailer_width (s : State) : (markBadTrailer s).width = s.width := rfl
@[simp] theorem markBadTrailer_height (s : State) : (markBadTrailer s).height = s.height := rfl
@[simp] theorem markBadTrailer_slices (s : State) : (markBadTrailer s).slices = s.slices := rfl
@[simp] theorem markBadTrailer_mbw (s : State) : (markBadTrailer s).mbw = s.mbw := rfl
@[simp] theorem markBadTrailer_sliceIdx (s : State) : (markBadTrailer s).sliceIdx = s.sliceIdx := rfl
@[simp] theorem markBadTrailer_mbIdx (s : State) : (markBadTrailer s).mbIdx = s.mbIdx := rfl
@[simp] theorem markBadTrailer_blockIdx (s : State) : (markBadTrailer s).blockIdx = s.blockIdx := rfl
@[simp] theorem markBadTrailer_desc (s : State) : (markBadTrailer s).desc = s.desc := rfl
@[simp] theorem markBadTrailer_coef (s : State) : (markBadTrailer s).coef = s.coef := rfl
@[simp] theorem markBadTrailer_idx (s : State) : (markBadTrailer s).idx = s.idx := rfl
@[simp] theorem markBadTrailer_ws (s : State) : (markBadTrailer s).ws = s.ws := rfl
@[simp] theorem markBadTrailer_spat (s : State) : (markBadTrailer s).spat = s.spat := rfl
@[simp] theorem markBadTrailer_raster (s : State) : (markBadTrailer s).raster = s.raster := rfl
@[simp] theorem markBadTrailer_earlyEos (s : State) : (markBadTrailer s).earlyEos = s.earlyEos := rfl
@[simp] theorem markBadTrailer_decodeSeconds (s : State) : (markBadTrailer s).decodeSeconds = s.decodeSeconds := rfl
@[simp] theorem markBadTrailer_clockDraws (s : State) : (markBadTrailer s).clockDraws = s.clockDraws := rfl

/-! ### finish -/

@[simp] theorem finish_cfg (s : State) : (finish s).cfg = s.cfg := rfl
@[simp] theorem finish_buf (s : State) : (finish s).buf = s.buf := rfl
@[simp] theorem finish_len (s : State) : (finish s).len = s.len := rfl
@[simp] theorem finish_started (s : State) : (finish s).started = s.started := rfl
@[simp] theorem finish_pos (s : State) : (finish s).pos = s.pos := rfl
@[simp] theorem finish_seq (s : State) : (finish s).seq = .done := rfl
@[simp] theorem finish_slot (s : State) : (finish s).slot = s.slot := rfl
@[simp] theorem finish_err (s : State) : (finish s).err = s.err := rfl
@[simp] theorem finish_failPos (s : State) : (finish s).failPos = s.failPos := rfl
@[simp] theorem finish_fmt (s : State) : (finish s).fmt = s.fmt := rfl
@[simp] theorem finish_scale (s : State) : (finish s).scale = s.scale := rfl
@[simp] theorem finish_width (s : State) : (finish s).width = s.width := rfl
@[simp] theorem finish_height (s : State) : (finish s).height = s.height := rfl
@[simp] theorem finish_slices (s : State) : (finish s).slices = s.slices := rfl
@[simp] theorem finish_mbw (s : State) : (finish s).mbw = s.mbw := rfl
@[simp] theorem finish_sliceIdx (s : State) : (finish s).sliceIdx = s.sliceIdx := rfl
@[simp] theorem finish_mbIdx (s : State) : (finish s).mbIdx = s.mbIdx := rfl
@[simp] theorem finish_blockIdx (s : State) : (finish s).blockIdx = s.blockIdx := rfl
@[simp] theorem finish_desc (s : State) : (finish s).desc = s.desc := rfl
@[simp] theorem finish_coef (s : State) : (finish s).coef = s.coef := rfl
@[simp] theorem finish_idx (s : State) : (finish s).idx = s.idx := rfl
@[simp] theorem finish_ws (s : State) : (finish s).ws = s.ws := rfl
@[simp] theorem finish_spat (s : State) : (finish s).spat = s.spat := rfl
@[simp] theorem finish_raster (s : State) : (finish s).raster = s.raster := rfl
@[simp] theorem finish_earlyEos (s : State) : (finish s).earlyEos = s.earlyEos := rfl
@[simp] theorem finish_decodeSeconds (s : State) : (finish s).decodeSeconds = Config.wallClock s.clockDraws := rfl
@[simp] theorem finish_clockDraws (s : State) : (finish s).clockDraws = s.clockDraws + 1 := rfl

/-! ### allocRaster -/

@[simp] theorem allocRaster_cfg (s : State) : (allocRaster s).cfg = s.cfg := rfl
@[simp] theorem allocRaster_buf (s : State) : (allocRaster s).buf = s.buf := rfl
@[simp] theorem allocRaster_len (s : State) : (allocRaster s).len = s.len := rfl
@[simp] theorem allocRaster_started (s : State) : (allocRaster s).started = s.started := rfl
@[simp] theorem allocRaster_pos (s : State) : (allocRaster s).pos = s.pos := rfl
@[simp] theorem allocRaster_seq (s : State) : (allocRaster s).seq = s.seq := rfl
@[simp] theorem allocRaster_slot (s : State) : (allocRaster s).slot = s.slot := rfl
@[simp] theorem allocRaster_err (s : State) : (allocRaster s).err = s.err := rfl
@[simp] theorem allocRaster_failPos (s : State) : (allocRaster s).failPos = s.failPos := rfl
@[simp] theorem allocRaster_fmt (s : State) : (allocRaster s).fmt = s.fmt := rfl
@[simp] theorem allocRaster_scale (s : State) : (allocRaster s).scale = s.scale := rfl
@[simp] theorem allocRaster_width (s : State) : (allocRaster s).width = s.width := rfl
@[simp] theorem allocRaster_height (s : State) : (allocRaster s).height = s.height := rfl
@[simp] theorem allocRaster_slices (s : State) : (allocRaster s).slices = s.slices := rfl
@[simp] theorem allocRaster_mbw (s : State) : (allocRaster s).mbw = s.mbw := rfl
@[simp] theorem allocRaster_sliceIdx (s : State) : (allocRaster s).sliceIdx = s.sliceIdx := rfl
@[simp] theorem allocRaster_mbIdx (s : State) : (allocRaster s).mbIdx = s.mbIdx := rfl
@[simp] theorem allocRaster_blockIdx (s : State) : (allocRaster s).blockIdx = s.blockIdx := rfl
@[simp] theorem allocRaster_desc (s : State) : (allocRaster s).desc = s.desc := rfl
@[simp] theorem allocRaster_coef (s : State) : (allocRaster s).coef = s.coef := rfl
@[simp] theorem allocRaster_idx (s : State) : (allocRaster s).idx = s.idx := rfl
@[simp] theorem allocRaster_ws (s : State) : (allocRaster s).ws = s.ws := rfl
@[simp] theorem allocRaster_spat (s : State) : (allocRaster s).spat = s.spat := rfl
@[simp] theorem allocRaster_raster (s : State) : (allocRaster s).raster = some [] := rfl
@[simp] theorem allocRaster_earlyEos (s : State) : (allocRaster s).earlyEos = s.earlyEos := rfl
@[simp] theorem allocRaster_decodeSeconds (s : State) : (allocRaster s).decodeSeconds = s.decodeSeconds := rfl
@[simp] theorem allocRaster_clockDraws (s : State) : (allocRaster s).clockDraws = s.clockDraws := rfl

/-! ### clearCoef -/

@[simp] theorem clearCoef_cfg (s : State) : (clearCoef s).cfg = s.cfg := rfl
@[simp] theorem clearCoef_buf (s : State) : (clearCoef s).buf = s.buf := rfl
@[simp] theorem clearCoef_len (s : State) : (clearCoef s).len = s.len := rfl
@[simp] theorem clearCoef_started (s : State) : (clearCoef s).started = s.started := rfl
@[simp] theorem clearCoef_pos (s : State) : (clearCoef s).pos = s.pos := rfl
@[simp] theorem clearCoef_seq (s : State) : (clearCoef s).seq = s.seq := rfl
@[simp] theorem clearCoef_slot (s : State) : (clearCoef s).slot = s.slot := rfl
@[simp] theorem clearCoef_err (s : State) : (clearCoef s).err = s.err := rfl
@[simp] theorem clearCoef_failPos (s : State) : (clearCoef s).failPos = s.failPos := rfl
@[simp] theorem clearCoef_fmt (s : State) : (clearCoef s).fmt = s.fmt := rfl
@[simp] theorem clearCoef_scale (s : State) : (clearCoef s).scale = s.scale := rfl
@[simp] theorem clearCoef_width (s : State) : (clearCoef s).width = s.width := rfl
@[simp] theorem clearCoef_height (s : State) : (clearCoef s).height = s.height := rfl
@[simp] theorem clearCoef_slices (s : State) : (clearCoef s).slices = s.slices := rfl
@[simp] theorem clearCoef_mbw (s : State) : (clearCoef s).mbw = s.mbw := rfl
@[simp] theorem clearCoef_sliceIdx (s : State) : (clearCoef s).sliceIdx = s.sliceIdx := rfl
@[simp] theorem clearCoef_mbIdx (s : State) : (clearCoef s).mbIdx = s.mbIdx := rfl
@[simp] theorem clearCoef_blockIdx (s : State) : (clearCoef s).blockIdx = s.blockIdx := rfl
@[simp] theorem clearCoef_desc (s : State) : (clearCoef s).desc = s.desc := rfl
@[simp] theorem clearCoef_coef (s : State) : (clearCoef s).coef = zeroBlock := rfl
@[simp] theorem clearCoef_idx (s : State) : (clearCoef s).idx = s.idx := rfl
@[simp] theorem clearCoef_ws (s : State) : (clearCoef s).ws = s.ws := rfl
@[simp] theorem clearCoef_spat (s : State) : (clearCoef s).spat = s.spat := rfl
@[simp] theorem clearCoef_raster (s : State) : (clearCoef s).raster = s.raster := rfl
@[simp] theorem clearCoef_earlyEos (s : State) : (clearCoef s).earlyEos = s.earlyEos := rfl
@[simp] theorem clearCoef_decodeSeconds (s : State) : (clearCoef s).decodeSeconds = s.decodeSeconds := rfl
@[simp] theorem clearCoef_clockDraws (s : State) : (clearCoef s).clockDraws = s.clockDraws := rfl

/-! ### deqDc -/

@[simp] theorem deqDc_cfg (v : BitVec 10) (s : State) : (deqDc v s).cfg = s.cfg := rfl
@[simp] theorem deqDc_buf (v : BitVec 10) (s : State) : (deqDc v s).buf = s.buf := rfl
@[simp] theorem deqDc_len (v : BitVec 10) (s : State) : (deqDc v s).len = s.len := rfl
@[simp] theorem deqDc_started (v : BitVec 10) (s : State) : (deqDc v s).started = s.started := rfl
@[simp] theorem deqDc_pos (v : BitVec 10) (s : State) : (deqDc v s).pos = s.pos := rfl
@[simp] theorem deqDc_seq (v : BitVec 10) (s : State) : (deqDc v s).seq = s.seq := rfl
@[simp] theorem deqDc_slot (v : BitVec 10) (s : State) : (deqDc v s).slot = s.slot := rfl
@[simp] theorem deqDc_err (v : BitVec 10) (s : State) : (deqDc v s).err = s.err := rfl
@[simp] theorem deqDc_failPos (v : BitVec 10) (s : State) : (deqDc v s).failPos = s.failPos := rfl
@[simp] theorem deqDc_fmt (v : BitVec 10) (s : State) : (deqDc v s).fmt = s.fmt := rfl
@[simp] theorem deqDc_scale (v : BitVec 10) (s : State) : (deqDc v s).scale = s.scale := rfl
@[simp] theorem deqDc_width (v : BitVec 10) (s : State) : (deqDc v s).width = s.width := rfl
@[simp] theorem deqDc_height (v : BitVec 10) (s : State) : (deqDc v s).height = s.height := rfl
@[simp] theorem deqDc_slices (v : BitVec 10) (s : State) : (deqDc v s).slices = s.slices := rfl
@[simp] theorem deqDc_mbw (v : BitVec 10) (s : State) : (deqDc v s).mbw = s.mbw := rfl
@[simp] theorem deqDc_sliceIdx (v : BitVec 10) (s : State) : (deqDc v s).sliceIdx = s.sliceIdx := rfl
@[simp] theorem deqDc_mbIdx (v : BitVec 10) (s : State) : (deqDc v s).mbIdx = s.mbIdx := rfl
@[simp] theorem deqDc_blockIdx (v : BitVec 10) (s : State) : (deqDc v s).blockIdx = s.blockIdx := rfl
@[simp] theorem deqDc_desc (v : BitVec 10) (s : State) : (deqDc v s).desc = s.desc := rfl
@[simp] theorem deqDc_coef (v : BitVec 10) (s : State) : (deqDc v s).coef = s.coef.set 0 ((v.toNat : Int) * (s.cfg.iquant[0] : Int)) := rfl
@[simp] theorem deqDc_idx (v : BitVec 10) (s : State) : (deqDc v s).idx = s.idx := rfl
@[simp] theorem deqDc_ws (v : BitVec 10) (s : State) : (deqDc v s).ws = s.ws := rfl
@[simp] theorem deqDc_spat (v : BitVec 10) (s : State) : (deqDc v s).spat = s.spat := rfl
@[simp] theorem deqDc_raster (v : BitVec 10) (s : State) : (deqDc v s).raster = s.raster := rfl
@[simp] theorem deqDc_earlyEos (v : BitVec 10) (s : State) : (deqDc v s).earlyEos = s.earlyEos := rfl
@[simp] theorem deqDc_decodeSeconds (v : BitVec 10) (s : State) : (deqDc v s).decodeSeconds = s.decodeSeconds := rfl
@[simp] theorem deqDc_clockDraws (v : BitVec 10) (s : State) : (deqDc v s).clockDraws = s.clockDraws := rfl

/-! ### deqAc -/

@[simp] theorem deqAc_cfg (i : Fin 64) (v : Int) (s : State) : (deqAc i v s).cfg = s.cfg := rfl
@[simp] theorem deqAc_buf (i : Fin 64) (v : Int) (s : State) : (deqAc i v s).buf = s.buf := rfl
@[simp] theorem deqAc_len (i : Fin 64) (v : Int) (s : State) : (deqAc i v s).len = s.len := rfl
@[simp] theorem deqAc_started (i : Fin 64) (v : Int) (s : State) : (deqAc i v s).started = s.started := rfl
@[simp] theorem deqAc_pos (i : Fin 64) (v : Int) (s : State) : (deqAc i v s).pos = s.pos := rfl
@[simp] theorem deqAc_seq (i : Fin 64) (v : Int) (s : State) : (deqAc i v s).seq = s.seq := rfl
@[simp] theorem deqAc_slot (i : Fin 64) (v : Int) (s : State) : (deqAc i v s).slot = s.slot := rfl
@[simp] theorem deqAc_err (i : Fin 64) (v : Int) (s : State) : (deqAc i v s).err = s.err := rfl
@[simp] theorem deqAc_failPos (i : Fin 64) (v : Int) (s : State) : (deqAc i v s).failPos = s.failPos := rfl
@[simp] theorem deqAc_fmt (i : Fin 64) (v : Int) (s : State) : (deqAc i v s).fmt = s.fmt := rfl
@[simp] theorem deqAc_scale (i : Fin 64) (v : Int) (s : State) : (deqAc i v s).scale = s.scale := rfl
@[simp] theorem deqAc_width (i : Fin 64) (v : Int) (s : State) : (deqAc i v s).width = s.width := rfl
@[simp] theorem deqAc_height (i : Fin 64) (v : Int) (s : State) : (deqAc i v s).height = s.height := rfl
@[simp] theorem deqAc_slices (i : Fin 64) (v : Int) (s : State) : (deqAc i v s).slices = s.slices := rfl
@[simp] theorem deqAc_mbw (i : Fin 64) (v : Int) (s : State) : (deqAc i v s).mbw = s.mbw := rfl
@[simp] theorem deqAc_sliceIdx (i : Fin 64) (v : Int) (s : State) : (deqAc i v s).sliceIdx = s.sliceIdx := rfl
@[simp] theorem deqAc_mbIdx (i : Fin 64) (v : Int) (s : State) : (deqAc i v s).mbIdx = s.mbIdx := rfl
@[simp] theorem deqAc_blockIdx (i : Fin 64) (v : Int) (s : State) : (deqAc i v s).blockIdx = s.blockIdx := rfl
@[simp] theorem deqAc_desc (i : Fin 64) (v : Int) (s : State) : (deqAc i v s).desc = s.desc := rfl
@[simp] theorem deqAc_coef (i : Fin 64) (v : Int) (s : State) : (deqAc i v s).coef = s.coef.set (s.cfg.zigzag[i]).val (v * (s.cfg.iquant[s.cfg.zigzag[i]] : Int)) (s.cfg.zigzag[i]).isLt := rfl
@[simp] theorem deqAc_idx (i : Fin 64) (v : Int) (s : State) : (deqAc i v s).idx = s.idx := rfl
@[simp] theorem deqAc_ws (i : Fin 64) (v : Int) (s : State) : (deqAc i v s).ws = s.ws := rfl
@[simp] theorem deqAc_spat (i : Fin 64) (v : Int) (s : State) : (deqAc i v s).spat = s.spat := rfl
@[simp] theorem deqAc_raster (i : Fin 64) (v : Int) (s : State) : (deqAc i v s).raster = s.raster := rfl
@[simp] theorem deqAc_earlyEos (i : Fin 64) (v : Int) (s : State) : (deqAc i v s).earlyEos = s.earlyEos := rfl
@[simp] theorem deqAc_decodeSeconds (i : Fin 64) (v : Int) (s : State) : (deqAc i v s).decodeSeconds = s.decodeSeconds := rfl
@[simp] theorem deqAc_clockDraws (i : Fin 64) (v : Int) (s : State) : (deqAc i v s).clockDraws = s.clockDraws := rfl

/-! ### idct -/

@[simp] theorem idct_cfg (b : Fin 6) (s : State) : (idct b s).cfg = s.cfg := rfl
@[simp] theorem idct_buf (b : Fin 6) (s : State) : (idct b s).buf = s.buf := rfl
@[simp] theorem idct_len (b : Fin 6) (s : State) : (idct b s).len = s.len := rfl
@[simp] theorem idct_started (b : Fin 6) (s : State) : (idct b s).started = s.started := rfl
@[simp] theorem idct_pos (b : Fin 6) (s : State) : (idct b s).pos = s.pos := rfl
@[simp] theorem idct_seq (b : Fin 6) (s : State) : (idct b s).seq = s.seq := rfl
@[simp] theorem idct_slot (b : Fin 6) (s : State) : (idct b s).slot = s.slot := rfl
@[simp] theorem idct_err (b : Fin 6) (s : State) : (idct b s).err = s.err := rfl
@[simp] theorem idct_failPos (b : Fin 6) (s : State) : (idct b s).failPos = s.failPos := rfl
@[simp] theorem idct_fmt (b : Fin 6) (s : State) : (idct b s).fmt = s.fmt := rfl
@[simp] theorem idct_scale (b : Fin 6) (s : State) : (idct b s).scale = s.scale := rfl
@[simp] theorem idct_width (b : Fin 6) (s : State) : (idct b s).width = s.width := rfl
@[simp] theorem idct_height (b : Fin 6) (s : State) : (idct b s).height = s.height := rfl
@[simp] theorem idct_slices (b : Fin 6) (s : State) : (idct b s).slices = s.slices := rfl
@[simp] theorem idct_mbw (b : Fin 6) (s : State) : (idct b s).mbw = s.mbw := rfl
@[simp] theorem idct_sliceIdx (b : Fin 6) (s : State) : (idct b s).sliceIdx = s.sliceIdx := rfl
@[simp] theorem idct_mbIdx (b : Fin 6) (s : State) : (idct b s).mbIdx = s.mbIdx := rfl
@[simp] theorem idct_blockIdx (b : Fin 6) (s : State) : (idct b s).blockIdx = s.blockIdx := rfl
@[simp] theorem idct_desc (b : Fin 6) (s : State) : (idct b s).desc = s.desc := rfl
@[simp] theorem idct_coef (b : Fin 6) (s : State) : (idct b s).coef = s.coef := rfl
@[simp] theorem idct_idx (b : Fin 6) (s : State) : (idct b s).idx = s.idx := rfl
@[simp] theorem idct_ws (b : Fin 6) (s : State) : (idct b s).ws = pass1 s.cfg s.coef := rfl
@[simp] theorem idct_spat (b : Fin 6) (s : State) : (idct b s).spat = s.spat.set b.val (pass2 s.cfg (pass1 s.cfg s.coef)) b.isLt := rfl
@[simp] theorem idct_raster (b : Fin 6) (s : State) : (idct b s).raster = s.raster := rfl
@[simp] theorem idct_earlyEos (b : Fin 6) (s : State) : (idct b s).earlyEos = s.earlyEos := rfl
@[simp] theorem idct_decodeSeconds (b : Fin 6) (s : State) : (idct b s).decodeSeconds = s.decodeSeconds := rfl
@[simp] theorem idct_clockDraws (b : Fin 6) (s : State) : (idct b s).clockDraws = s.clockDraws := rfl

/-! ### enterSlices -/

@[simp] theorem enterSlices_cfg (s : State) : (enterSlices s).cfg = s.cfg := rfl
@[simp] theorem enterSlices_buf (s : State) : (enterSlices s).buf = s.buf := rfl
@[simp] theorem enterSlices_len (s : State) : (enterSlices s).len = s.len := rfl
@[simp] theorem enterSlices_started (s : State) : (enterSlices s).started = s.started := rfl
@[simp] theorem enterSlices_pos (s : State) : (enterSlices s).pos = s.pos := rfl
@[simp] theorem enterSlices_seq (s : State) : (enterSlices s).seq = .decodeSlices := rfl
@[simp] theorem enterSlices_slot (s : State) : (enterSlices s).slot = .mbHdr := rfl
@[simp] theorem enterSlices_err (s : State) : (enterSlices s).err = s.err := rfl
@[simp] theorem enterSlices_failPos (s : State) : (enterSlices s).failPos = s.failPos := rfl
@[simp] theorem enterSlices_fmt (s : State) : (enterSlices s).fmt = s.fmt := rfl
@[simp] theorem enterSlices_scale (s : State) : (enterSlices s).scale = s.scale := rfl
@[simp] theorem enterSlices_width (s : State) : (enterSlices s).width = s.width := rfl
@[simp] theorem enterSlices_height (s : State) : (enterSlices s).height = s.height := rfl
@[simp] theorem enterSlices_slices (s : State) : (enterSlices s).slices = s.height / 16 := rfl
@[simp] theorem enterSlices_mbw (s : State) : (enterSlices s).mbw = s.width / 16 := rfl
@[simp] theorem enterSlices_sliceIdx (s : State) : (enterSlices s).sliceIdx = 0 := rfl
@[simp] theorem enterSlices_mbIdx (s : State) : (enterSlices s).mbIdx = 0 := rfl
@[simp] theorem enterSlices_blockIdx (s : State) : (enterSlices s).blockIdx = s.blockIdx := rfl
@[simp] theorem enterSlices_desc (s : State) : (enterSlices s).desc = s.desc := rfl
@[simp] theorem enterSlices_coef (s : State) : (enterSlices s).coef = s.coef := rfl
@[simp] theorem enterSlices_idx (s : State) : (enterSlices s).idx = s.idx := rfl
@[simp] theorem enterSlices_ws (s : State) : (enterSlices s).ws = s.ws := rfl
@[simp] theorem enterSlices_spat (s : State) : (enterSlices s).spat = s.spat := rfl
@[simp] theorem enterSlices_raster (s : State) : (enterSlices s).raster = some [] := rfl
@[simp] theorem enterSlices_earlyEos (s : State) : (enterSlices s).earlyEos = s.earlyEos := rfl
@[simp] theorem enterSlices_decodeSeconds (s : State) : (enterSlices s).decodeSeconds = s.decodeSeconds := rfl
@[simp] theorem enterSlices_clockDraws (s : State) : (enterSlices s).clockDraws = s.clockDraws := rfl

/-! ### enterSlice -/

@[simp] theorem enterSlice_cfg (s : State) : (enterSlice s).cfg = s.cfg := rfl
@[simp] theorem enterSlice_buf (s : State) : (enterSlice s).buf = s.buf := rfl
@[simp] theorem enterSlice_len (s : State) : (enterSlice s).len = s.len := rfl
@[simp] theorem enterSlice_started (s : State) : (enterSlice s).started = s.started := rfl
@[simp] theorem enterSlice_pos (s : State) : (enterSlice s).pos = s.pos := rfl
@[simp] theorem enterSlice_seq (s : State) : (enterSlice s).seq = s.seq := rfl
@[simp] theorem enterSlice_slot (s : State) : (enterSlice s).slot = .mbHdr := rfl
@[simp] theorem enterSlice_err (s : State) : (enterSlice s).err = s.err := rfl
@[simp] theorem enterSlice_failPos (s : State) : (enterSlice s).failPos = s.failPos := rfl
@[simp] theorem enterSlice_fmt (s : State) : (enterSlice s).fmt = s.fmt := rfl
@[simp] theorem enterSlice_scale (s : State) : (enterSlice s).scale = s.scale := rfl
@[simp] theorem enterSlice_width (s : State) : (enterSlice s).width = s.width := rfl
@[simp] theorem enterSlice_height (s : State) : (enterSlice s).height = s.height := rfl
@[simp] theorem enterSlice_slices (s : State) : (enterSlice s).slices = s.slices := rfl
@[simp] theorem enterSlice_mbw (s : State) : (enterSlice s).mbw = s.mbw := rfl
@[simp] theorem enterSlice_sliceIdx (s : State) : (enterSlice s).sliceIdx = s.sliceIdx := rfl
@[simp] theorem enterSlice_mbIdx (s : State) : (enterSlice s).mbIdx = 0 := rfl
@[simp] theorem enterSlice_blockIdx (s : State) : (enterSlice s).blockIdx = s.blockIdx := rfl
@[simp] theorem enterSlice_desc (s : State) : (enterSlice s).desc = s.desc := rfl
@[simp] theorem enterSlice_coef (s : State) : (enterSlice s).coef = s.coef := rfl
@[simp] theorem enterSlice_idx (s : State) : (enterSlice s).idx = s.idx := rfl
@[simp] theorem enterSlice_ws (s : State) : (enterSlice s).ws = s.ws := rfl
@[simp] theorem enterSlice_spat (s : State) : (enterSlice s).spat = s.spat := rfl
@[simp] theorem enterSlice_raster (s : State) : (enterSlice s).raster = s.raster := rfl
@[simp] theorem enterSlice_earlyEos (s : State) : (enterSlice s).earlyEos = s.earlyEos := rfl
@[simp] theorem enterSlice_decodeSeconds (s : State) : (enterSlice s).decodeSeconds = s.decodeSeconds := rfl
@[simp] theorem enterSlice_clockDraws (s : State) : (enterSlice s).clockDraws = s.clockDraws := rfl

/-! ### enterBlocks -/

@[simp] theorem enterBlocks_cfg (s : State) : (enterBlocks s).cfg = s.cfg := rfl
@[simp] theorem enterBlocks_buf (s : State) : (enterBlocks s).buf = s.buf := rfl
@[simp] theorem enterBlocks_len (s : State) : (enterBlocks s).len = s.len := rfl
@[simp] theorem enterBlocks_started (s : State) : (enterBlocks s).started = s.started := rfl
@[simp] theorem enterBlocks_pos (s : State) : (enterBlocks s).pos = s.pos := rfl
@[simp] theorem enterBlocks_seq (s : State) : (enterBlocks s).seq = s.seq := rfl
@[simp] theorem enterBlocks_slot (s : State) : (enterBlocks s).slot = .dc := rfl
@[simp] theorem enterBlocks_err (s : State) : (enterBlocks s).err = s.err := rfl
@[simp] theorem enterBlocks_failPos (s : State) : (enterBlocks s).failPos = s.failPos := rfl
@[simp] theorem enterBlocks_fmt (s : State) : (enterBlocks s).fmt = s.fmt := rfl
@[simp] theorem enterBlocks_scale (s : State) : (enterBlocks s).scale = s.scale := rfl
@[simp] theorem enterBlocks_width (s : State) : (enterBlocks s).width = s.width := rfl
@[simp] theorem enterBlocks_height (s : State) : (enterBlocks s).height = s.height := rfl
@[simp] theorem enterBlocks_slices (s : State) : (enterBlocks s).slices = s.slices := rfl
@[simp] theorem enterBlocks_mbw (s : State) : (enterBlocks s).mbw = s.mbw := rfl
@[simp] theorem enterBlocks_sliceIdx (s : State) : (enterBlocks s).sliceIdx = s.sliceIdx := rfl
@[simp] theorem enterBlocks_mbIdx (s : State) : (enterBlocks s).mbIdx = s.mbIdx := rfl
@[simp] theorem enterBlocks_blockIdx (s : State) : (enterBlocks s).blockIdx = 0 := rfl
@[simp] theorem enterBlocks_desc (s : State) : (enterBlocks s).desc = s.desc := rfl
@[simp] theorem enterBlocks_coef (s : State) : (enterBlocks s).coef = s.coef := rfl
@[simp] theorem enterBlocks_idx (s : State) : (enterBlocks s).idx = s.idx := rfl
@[simp] theorem enterBlocks_ws (s : State) : (enterBlocks s).ws = s.ws := rfl
@[simp] theorem enterBlocks_spat (s : State) : (enterBlocks s).spat = s.spat := rfl
@[simp] theorem enterBlocks_raster (s : State) : (enterBlocks s).raster = s.raster := rfl
@[simp] theorem enterBlocks_earlyEos (s : State) : (enterBlocks s).earlyEos = s.earlyEos := rfl
@[simp] theorem enterBlocks_decodeSeconds (s : State) : (enterBlocks s).decodeSeconds = s.decodeSeconds := rfl
@[simp] theorem enterBlocks_clockDraws (s : State) : (enterBlocks s).clockDraws = s.clockDraws := rfl

/-! ### enterAc -/

@[simp] theorem enterAc_cfg (s : State) : (enterAc s).cfg = s.cfg := rfl
@[simp] theorem enterAc_buf (s : State) : (enterAc s).buf = s.buf := rfl
@[simp] theorem enterAc_len (s : State) : (enterAc s).len = s.len := rfl
@[simp] theorem enterAc_started (s : State) : (enterAc s).started = s.started := rfl
@[simp] theorem enterAc_pos (s : State) : (enterAc s).pos = s.pos := rfl
@[simp] theorem enterAc_seq (s : State) : (enterAc s).seq = s.seq := rfl
@[simp] theorem enterAc_slot (s : State) : (enterAc s).slot = .run := rfl
@[simp] theorem enterAc_err (s : State) : (enterAc s).err = s.err := rfl
@[simp] theorem enterAc_failPos (s : State) : (enterAc s).failPos = s.failPos := rfl
@[simp] theorem enterAc_fmt (s : State) : (enterAc s).fmt = s.fmt := rfl
@[simp] theorem enterAc_scale (s : State) : (enterAc s).scale = s.scale := rfl
@[simp] theorem enterAc_width (s : State) : (enterAc s).width = s.width := rfl
@[simp] theorem enterAc_height (s : State) : (enterAc s).height = s.height := rfl
@[simp] theorem enterAc_slices (s : State) : (enterAc s).slices = s.slices := rfl
@[simp] theorem enterAc_mbw (s : State) : (enterAc s).mbw = s.mbw := rfl
@[simp] theorem enterAc_sliceIdx (s : State) : (enterAc s).sliceIdx = s.sliceIdx := rfl
@[simp] theorem enterAc_mbIdx (s : State) : (enterAc s).mbIdx = s.mbIdx := rfl
@[simp] theorem enterAc_blockIdx (s : State) : (enterAc s).blockIdx = s.blockIdx := rfl
@[simp] theorem enterAc_desc (s : State) : (enterAc s).desc = s.desc := rfl
@[simp] theorem enterAc_coef (s : State) : (enterAc s).coef = s.coef := rfl
@[simp] theorem enterAc_idx (s : State) : (enterAc s).idx = 1 := rfl
@[simp] theorem enterAc_ws (s : State) : (enterAc s).ws = s.ws := rfl
@[simp] theorem enterAc_spat (s : State) : (enterAc s).spat = s.spat := rfl
@[simp] theorem enterAc_raster (s : State) : (enterAc s).raster = s.raster := rfl
@[simp] theorem enterAc_earlyEos (s : State) : (enterAc s).earlyEos = s.earlyEos := rfl
@[simp] theorem enterAc_decodeSeconds (s : State) : (enterAc s).decodeSeconds = s.decodeSeconds := rfl
@[simp] theorem enterAc_clockDraws (s : State) : (enterAc s).clockDraws = s.clockDraws := rfl

/-! ### acceptDesc -/

@[simp] theorem acceptDesc_cfg (d : BitVec 8) (s : State) : (acceptDesc d s).cfg = s.cfg := rfl
@[simp] theorem acceptDesc_buf (d : BitVec 8) (s : State) : (acceptDesc d s).buf = s.buf := rfl
@[simp] theorem acceptDesc_len (d : BitVec 8) (s : State) : (acceptDesc d s).len = s.len := rfl
@[simp] theorem acceptDesc_started (d : BitVec 8) (s : State) : (acceptDesc d s).started = s.started := rfl
@[simp] theorem acceptDesc_pos (d : BitVec 8) (s : State) : (acceptDesc d s).pos = s.pos := rfl
@[simp] theorem acceptDesc_seq (d : BitVec 8) (s : State) : (acceptDesc d s).seq = s.seq := rfl
@[simp] theorem acceptDesc_slot (d : BitVec 8) (s : State) : (acceptDesc d s).slot = s.slot := rfl
@[simp] theorem acceptDesc_err (d : BitVec 8) (s : State) : (acceptDesc d s).err = s.err := rfl
@[simp] theorem acceptDesc_failPos (d : BitVec 8) (s : State) : (acceptDesc d s).failPos = s.failPos := rfl
@[simp] theorem acceptDesc_fmt (d : BitVec 8) (s : State) : (acceptDesc d s).fmt = s.fmt := rfl
@[simp] theorem acceptDesc_scale (d : BitVec 8) (s : State) : (acceptDesc d s).scale = s.scale := rfl
@[simp] theorem acceptDesc_width (d : BitVec 8) (s : State) : (acceptDesc d s).width = s.width := rfl
@[simp] theorem acceptDesc_height (d : BitVec 8) (s : State) : (acceptDesc d s).height = s.height := rfl
@[simp] theorem acceptDesc_slices (d : BitVec 8) (s : State) : (acceptDesc d s).slices = s.slices := rfl
@[simp] theorem acceptDesc_mbw (d : BitVec 8) (s : State) : (acceptDesc d s).mbw = s.mbw := rfl
@[simp] theorem acceptDesc_sliceIdx (d : BitVec 8) (s : State) : (acceptDesc d s).sliceIdx = s.sliceIdx := rfl
@[simp] theorem acceptDesc_mbIdx (d : BitVec 8) (s : State) : (acceptDesc d s).mbIdx = s.mbIdx := rfl
@[simp] theorem acceptDesc_blockIdx (d : BitVec 8) (s : State) : (acceptDesc d s).blockIdx = s.blockIdx := rfl
@[simp] theorem acceptDesc_desc (d : BitVec 8) (s : State) : (acceptDesc d s).desc = d := rfl
@[simp] theorem acceptDesc_coef (d : BitVec 8) (s : State) : (acceptDesc d s).coef = s.coef := rfl
@[simp] theorem acceptDesc_idx (d : BitVec 8) (s : State) : (acceptDesc d s).idx = s.idx := rfl
@[simp] theorem acceptDesc_ws (d : BitVec 8) (s : State) : (acceptDesc d s).ws = s.ws := rfl
@[simp] theorem acceptDesc_spat (d : BitVec 8) (s : State) : (acceptDesc d s).spat = s.spat := rfl
@[simp] theorem acceptDesc_raster (d : BitVec 8) (s : State) : (acceptDesc d s).raster = s.raster := rfl
@[simp] theorem acceptDesc_earlyEos (d : BitVec 8) (s : State) : (acceptDesc d s).earlyEos = s.earlyEos := rfl
@[simp] theorem acceptDesc_decodeSeconds (d : BitVec 8) (s : State) : (acceptDesc d s).decodeSeconds = s.decodeSeconds := rfl
@[simp] theorem acceptDesc_clockDraws (d : BitVec 8) (s : State) : (acceptDesc d s).clockDraws = s.clockDraws := rfl

/-! ### The moves that depend on the state: what they leave alone -/

@[simp] theorem afterAlign_cfg (s : State) : (afterAlign s).cfg = s.cfg := by unfold afterAlign; split <;> rfl
@[simp] theorem afterAlign_buf (s : State) : (afterAlign s).buf = s.buf := by unfold afterAlign; split <;> rfl
@[simp] theorem afterAlign_len (s : State) : (afterAlign s).len = s.len := by unfold afterAlign; split <;> rfl
@[simp] theorem afterAlign_started (s : State) : (afterAlign s).started = s.started := by unfold afterAlign; split <;> rfl
@[simp] theorem afterAlign_pos (s : State) : (afterAlign s).pos = s.pos := by unfold afterAlign; split <;> rfl
@[simp] theorem afterAlign_seq (s : State) : (afterAlign s).seq = s.seq := by unfold afterAlign; split <;> rfl
@[simp] theorem afterAlign_err (s : State) : (afterAlign s).err = s.err := by unfold afterAlign; split <;> rfl
@[simp] theorem afterAlign_failPos (s : State) : (afterAlign s).failPos = s.failPos := by unfold afterAlign; split <;> rfl
@[simp] theorem afterAlign_fmt (s : State) : (afterAlign s).fmt = s.fmt := by unfold afterAlign; split <;> rfl
@[simp] theorem afterAlign_scale (s : State) : (afterAlign s).scale = s.scale := by unfold afterAlign; split <;> rfl
@[simp] theorem afterAlign_width (s : State) : (afterAlign s).width = s.width := by unfold afterAlign; split <;> rfl
@[simp] theorem afterAlign_height (s : State) : (afterAlign s).height = s.height := by unfold afterAlign; split <;> rfl
@[simp] theorem afterAlign_slices (s : State) : (afterAlign s).slices = s.slices := by unfold afterAlign; split <;> rfl
@[simp] theorem afterAlign_mbw (s : State) : (afterAlign s).mbw = s.mbw := by unfold afterAlign; split <;> rfl
@[simp] theorem afterAlign_sliceIdx (s : State) : (afterAlign s).sliceIdx = s.sliceIdx := by unfold afterAlign; split <;> rfl
@[simp] theorem afterAlign_mbIdx (s : State) : (afterAlign s).mbIdx = s.mbIdx := by unfold afterAlign; split <;> rfl
@[simp] theorem afterAlign_blockIdx (s : State) : (afterAlign s).blockIdx = s.blockIdx := by unfold afterAlign; split <;> rfl
@[simp] theorem afterAlign_desc (s : State) : (afterAlign s).desc = s.desc := by unfold afterAlign; split <;> rfl
@[simp] theorem afterAlign_coef (s : State) : (afterAlign s).coef = s.coef := by unfold afterAlign; split <;> rfl
@[simp] theorem afterAlign_idx (s : State) : (afterAlign s).idx = s.idx := by unfold afterAlign; split <;> rfl
@[simp] theorem afterAlign_ws (s : State) : (afterAlign s).ws = s.ws := by unfold afterAlign; split <;> rfl
@[simp] theorem afterAlign_spat (s : State) : (afterAlign s).spat = s.spat := by unfold afterAlign; split <;> rfl
@[simp] theorem afterAlign_raster (s : State) : (afterAlign s).raster = s.raster := by unfold afterAlign; split <;> rfl
@[simp] theorem afterAlign_earlyEos (s : State) : (afterAlign s).earlyEos = s.earlyEos := by unfold afterAlign; split <;> rfl
@[simp] theorem afterAlign_decodeSeconds (s : State) : (afterAlign s).decodeSeconds = s.decodeSeconds := by unfold afterAlign; split <;> rfl
@[simp] theorem afterAlign_clockDraws (s : State) : (afterAlign s).clockDraws = s.clockDraws := by unfold afterAlign; split <;> rfl

@[simp] theorem nextMacroblock_cfg (s : State) : (nextMacroblock s).cfg = s.cfg := by unfold nextMacroblock; split <;> [skip; split] <;> rfl
@[simp] theorem nextMacroblock_buf (s : State) : (nextMacroblock s).buf = s.buf := by unfold nextMacroblock; split <;> [skip; split] <;> rfl
@[simp] theorem nextMacroblock_len (s : State) : (nextMacroblock s).len = s.len := by unfold nextMacroblock; split <;> [skip; split] <;> rfl
@[simp] theorem nextMacroblock_started (s : State) : (nextMacroblock s).started = s.started := by unfold nextMacroblock; split <;> [skip; split] <;> rfl
@[simp] theorem nextMacroblock_pos (s : State) : (nextMacroblock s).pos = s.pos := by unfold nextMacroblock; split <;> [skip; split] <;> rfl
@[simp] theorem nextMacroblock_err (s : State) : (nextMacroblock s).err = s.err := by unfold nextMacroblock; split <;> [skip; split] <;> rfl
@[simp] theorem nextMacroblock_failPos (s : State) : (nextMacroblock s).failPos = s.failPos := by unfold nextMacroblock; split <;> [skip; split] <;> rfl
@[simp] theorem nextMacroblock_fmt (s : State) : (nextMacroblock s).fmt = s.fmt := by unfold nextMacroblock; split <;> [skip; split] <;> rfl
@[simp] theorem nextMacroblock_scale (s : State) : (nextMacroblock s).scale = s.scale := by unfold nextMacroblock; split <;> [skip; split] <;> rfl
@[simp] theorem nextMacroblock_width (s : State) : (nextMacroblock s).width = s.width := by unfold nextMacroblock; split <;> [skip; split] <;> rfl
@[simp] theorem nextMacroblock_height (s : State) : (nextMacroblock s).height = s.height := by unfold nextMacroblock; split <;> [skip; split] <;> rfl
@[simp] theorem nextMacroblock_slices (s : State) : (nextMacroblock s).slices = s.slices := by unfold nextMacroblock; split <;> [skip; split] <;> rfl
@[simp] theorem nextMacroblock_mbw (s : State) : (nextMacroblock s).mbw = s.mbw := by unfold nextMacroblock; split <;> [skip; split] <;> rfl
@[simp] theorem nextMacroblock_blockIdx (s : State) : (nextMacroblock s).blockIdx = s.blockIdx := by unfold nextMacroblock; split <;> [skip; split] <;> rfl
@[simp] theorem nextMacroblock_desc (s : State) : (nextMacroblock s).desc = s.desc := by unfold nextMacroblock; split <;> [skip; split] <;> rfl
@[simp] theorem nextMacroblock_coef (s : State) : (nextMacroblock s).coef = s.coef := by unfold nextMacroblock; split <;> [skip; split] <;> rfl
@[simp] theorem nextMacroblock_idx (s : State) : (nextMacroblock s).idx = s.idx := by unfold nextMacroblock; split <;> [skip; split] <;> rfl
@[simp] theorem nextMacroblock_ws (s : State) : (nextMacroblock s).ws = s.ws := by unfold nextMacroblock; split <;> [skip; split] <;> rfl
@[simp] theorem nextMacroblock_spat (s : State) : (nextMacroblock s).spat = s.spat := by unfold nextMacroblock; split <;> [skip; split] <;> rfl
@[simp] theorem nextMacroblock_raster (s : State) : (nextMacroblock s).raster = s.raster := by unfold nextMacroblock; split <;> [skip; split] <;> rfl
@[simp] theorem nextMacroblock_earlyEos (s : State) : (nextMacroblock s).earlyEos = s.earlyEos := by unfold nextMacroblock; split <;> [skip; split] <;> rfl
@[simp] theorem nextMacroblock_decodeSeconds (s : State) : (nextMacroblock s).decodeSeconds = s.decodeSeconds := by unfold nextMacroblock; split <;> [skip; split] <;> rfl
@[simp] theorem nextMacroblock_clockDraws (s : State) : (nextMacroblock s).clockDraws = s.clockDraws := by unfold nextMacroblock; split <;> [skip; split] <;> rfl

@[simp] theorem bcAlign_cfg (s : State) : (bcAlign s).cfg = s.cfg := rfl
@[simp] theorem bcAlign_buf (s : State) : (bcAlign s).buf = s.buf := rfl
@[simp] theorem bcAlign_len (s : State) : (bcAlign s).len = s.len := rfl
@[simp] theorem bcAlign_started (s : State) : (bcAlign s).started = s.started := rfl
@[simp] theorem bcAlign_seq (s : State) : (bcAlign s).seq = s.seq := rfl
@[simp] theorem bcAlign_slot (s : State) : (bcAlign s).slot = s.slot := rfl
@[simp] theorem bcAlign_err (s : State) : (bcAlign s).err = s.err := rfl
@[simp] theorem bcAlign_failPos (s : State) : (bcAlign s).failPos = s.failPos := rfl
@[simp] theorem bcAlign_fmt (s : State) : (bcAlign s).fmt = s.fmt := rfl
@[simp] theorem bcAlign_scale (s : State) : (bcAlign s).scale = s.scale := rfl
@[simp] theorem bcAlign_width (s : State) : (bcAlign s).width = s.width := rfl
@[simp] theorem bcAlign_height (s : State) : (bcAlign s).height = s.height := rfl
@[simp] theorem bcAlign_slices (s : State) : (bcAlign s).slices = s.slices := rfl
@[simp] theorem bcAlign_mbw (s : State) : (bcAlign s).mbw = s.mbw := rfl
@[simp] theorem bcAlign_sliceIdx (s : State) : (bcAlign s).sliceIdx = s.sliceIdx := rfl
@[simp] theorem bcAlign_mbIdx (s : State) : (bcAlign s).mbIdx = s.mbIdx := rfl
@[simp] theorem bcAlign_blockIdx (s : State) : (bcAlign s).blockIdx = s.blockIdx := rfl
@[simp] theorem bcAlign_desc (s : State) : (bcAlign s).desc = s.desc := rfl
@[simp] theorem bcAlign_coef (s : State) : (bcAlign s).coef = s.coef := rfl
@[simp] theorem bcAlign_idx (s : State) : (bcAlign s).idx = s.idx := rfl
@[simp] theorem bcAlign_ws (s : State) : (bcAlign s).ws = s.ws := rfl
@[simp] theorem bcAlign_spat (s : State) : (bcAlign s).spat = s.spat := rfl
@[simp] theorem bcAlign_raster (s : State) : (bcAlign s).raster = s.raster := rfl
@[simp] theorem bcAlign_earlyEos (s : State) : (bcAlign s).earlyEos = s.earlyEos := rfl
@[simp] theorem bcAlign_decodeSeconds (s : State) : (bcAlign s).decodeSeconds = s.decodeSeconds := rfl
@[simp] theorem bcAlign_clockDraws (s : State) : (bcAlign s).clockDraws = s.clockDraws := rfl
@[simp] theorem bcAlign_pos (s : State) : (bcAlign s).pos = s.pos + padLength s.pos := rfl

/-! ### Functions of the state -/

@[simp] theorem bcSkip_limit (n : Nat) (s : State) : (bcSkip n s).limit = s.limit := rfl
@[simp] theorem bcAlign_limit (s : State) : (bcAlign s).limit = s.limit := rfl
@[simp] theorem raise_limit (k : Err) (s : State) : (raise k s).limit = s.limit := rfl
@[simp] theorem clearCoef_limit (s : State) : (clearCoef s).limit = s.limit := rfl
@[simp] theorem acceptDesc_limit (d : BitVec 8) (s : State) : (acceptDesc d s).limit = s.limit := rfl
@[simp] theorem bcSkip_overrun (n : Nat) (s : State) : (bcSkip n s).overrun = decide (s.limit < s.pos + n) := rfl
@[simp] theorem raise_running (k : Err) (s : State) : (raise k s).running = false := rfl
@[simp] theorem finish_running (s : State) : (finish s).running = false := rfl

end Sys2Proof.Machine
end

