-- ==== Sys2Proof/Laws/Ops.lean ====
section
/-! SUPPORT. For each shared operation, what it can do, said once: a proof cites these and does not unfold the operation. -/

namespace Sys2Proof.Machine

open Sys2Proof

/-! ### The status codes -/

/-- The code of `ERR` is 0 or that of a kind (R27, R240). -/
theorem Err.code_mem (c : Cfg) (k : Err) : k.code c ∈ 0 :: c.errCode.toList := by
  cases k <;> simp [Err.code, ErrCodes.toList]

/-! ### The bit cursor -/

/-- A skip that stays inside `LIMIT` goes on. -/
theorem skipc_of_le {n : Nat} {k : Err} {s : State} {rest : State → Out} (h : s.pos + n ≤ s.limit) :
    skipc n k s rest = rest (bcSkip n s) := by
  have : ¬ s.limit < s.pos + n := by omega
  simp [skipc, this]

/-- A skip past `LIMIT` raises the truncation error of its context. -/
theorem skipc_of_lt {n : Nat} {k : Err} {s : State} {rest : State → Out} (h : s.limit < s.pos + n) :
    skipc n k s rest = .next (raise k (bcSkip n s)) := by
  simp [skipc, h]

/-- What a skip with the truncation test can do. -/
theorem skipc_cases (n : Nat) (k : Err) (s : State) (rest : State → Out) :
    (s.limit < s.pos + n ∧ skipc n k s rest = .next (raise k (bcSkip n s))) ∨
    (s.pos + n ≤ s.limit ∧ skipc n k s rest = rest (bcSkip n s)) := by
  rcases Nat.lt_or_ge s.limit (s.pos + n) with h | h
  · exact .inl ⟨h, skipc_of_lt h⟩
  · exact .inr ⟨h, skipc_of_le h⟩

/-- Aligning ends at a byte boundary. -/
theorem padLength_aligned (pos : Nat) : (pos + padLength pos) % 8 = 0 := by unfold padLength; omega

theorem padLength_lt (pos : Nat) : padLength pos < 8 := by unfold padLength; omega

/-- `LIMIT` is a multiple of 32, so aligning from a position inside it stays inside (R105). -/
theorem align_le_limit {s : State} (h : s.pos ≤ s.limit) : s.pos + padLength s.pos ≤ s.limit := by
  unfold State.limit padLength at *; omega

/-- Every stream bit before `LIMIT` is backed by a buffer byte (R53). -/
theorem streamByte_lt_len {s : State} {k : Nat} (h : k < s.limit) : streamByte k < s.len := by
  unfold State.limit at h; unfold streamByte; omega

/-! ### The sequencer's moves -/

theorem afterAlign_slot (s : State) :
    (afterAlign s).slot =
      match s.seq with
      | .readHeader => .picHdr
      | .decodeSlices => .sliceHdr
      | .readTrailer => .trailer
      | .done => s.slot
      | .failed => s.slot := by
  unfold afterAlign; split <;> simp_all

/-- What follows a macroblock: one of three places (R217, R221). -/
theorem nextMacroblock_cases (s : State) :
    (s.mbIdx + 1 < s.mbw ∧ nextMacroblock s = { s with mbIdx := s.mbIdx + 1, slot := .mbHdr }) ∨
    (s.mbw ≤ s.mbIdx + 1 ∧ s.sliceIdx + 1 < s.slices ∧
      nextMacroblock s = { s with sliceIdx := s.sliceIdx + 1, slot := .alignPad }) ∨
    (s.mbw ≤ s.mbIdx + 1 ∧ s.slices ≤ s.sliceIdx + 1 ∧
      nextMacroblock s = { s with seq := .readTrailer, slot := .alignPad }) := by
  unfold nextMacroblock
  split
  · exact .inl ⟨by assumption, rfl⟩
  · split
    · exact .inr (.inl ⟨by omega, by assumption, rfl⟩)
    · exact .inr (.inr ⟨by omega, by omega, rfl⟩)

/-! ### The raster -/

/-- When a macroblock can be stored, and what the store leaves. -/
theorem storeMacroblock_eq_some {s t : State} (h : storeMacroblock s = some t) :
    ∃ m, s.raster = some m ∧ footprintInside s = true ∧
      t = { s with raster := some ((List.finRange 256).foldl (storeSample s) m) } := by
  unfold storeMacroblock at h
  split at h
  · cases h
  · rename_i m hm
    split at h
    · rename_i hf; exact ⟨m, hm, hf, by simpa using h.symm⟩
    · cases h

theorem storeMacroblock_of_inside {s : State} {m : Memory} (hm : s.raster = some m) (hf : footprintInside s = true) :
    storeMacroblock s = some { s with raster := some ((List.finRange 256).foldl (storeSample s) m) } := by
  unfold storeMacroblock; rw [hm]; simp only [hf, if_true]

/-- The pixels of a macroblock lie inside its footprint (R190). -/
theorem pixelX_lt (s : State) (i : Fin 256) : 16 * s.mbIdx ≤ pixelX s i ∧ pixelX s i < 16 * (s.mbIdx + 1) := by
  unfold pixelX; have := Nat.mod_lt (s.cfg.mbmap[i]).val (show 0 < 16 by omega); omega

theorem pixelY_lt (s : State) (i : Fin 256) : 16 * s.sliceIdx ≤ pixelY s i ∧ pixelY s i < 16 * (s.sliceIdx + 1) := by
  unfold pixelY; have := (s.cfg.mbmap[i]).isLt; omega

/-- A pixel inside the picture has its three bytes inside the raster (R190). -/
theorem pixelAddress_lt {w h x y : Nat} (hx : x < w) (hy : y < h) : pixelAddress w x y + 2 < 3 * w * h := by
  unfold pixelAddress
  have h1 : y * w + x < h * w := by
    calc y * w + x < y * w + w := by omega
      _ = (y + 1) * w := by rw [Nat.add_mul, Nat.one_mul]
      _ ≤ h * w := Nat.mul_le_mul_right _ hy
  have h2 : 3 * w * h = 3 * (h * w) := by rw [Nat.mul_assoc, Nat.mul_comm w h]
  omega

/-- Storing samples keeps the canonical form of the raster. -/
theorem storeSamples_wf (s : State) (l : List (Fin 256)) {m : Memory} (hm : Memory.wf s.cfg.rasterFill m) :
    Memory.wf s.cfg.rasterFill (l.foldl (storeSample s) m) := by
  induction l generalizing m with
  | nil => exact hm
  | cons i l ih => exact ih (storePixel_wf _ _ _ _ hm)

/-- Storing samples of a footprint inside the raster keeps every address inside it. -/
theorem storeSamples_below (s : State) (l : List (Fin 256)) {m : Memory} (hf : footprintInside s = true)
    (hm : Memory.below s.rasterSize m) : Memory.below s.rasterSize (l.foldl (storeSample s) m) := by
  simp only [footprintInside, Bool.and_eq_true, decide_eq_true_eq] at hf
  induction l generalizing m with
  | nil => exact hm
  | cons i l ih =>
    have hx := pixelX_lt s i
    have hy := pixelY_lt s i
    have hb : pixelAddress s.width (pixelX s i) (pixelY s i) + 2 < s.rasterSize :=
      pixelAddress_lt (by omega) (by omega)
    refine ih ?_
    unfold storeSample storePixel
    exact Memory.write_below _ _ (Memory.write_below _ _ (Memory.write_below _ _ hm (by omega)) (by omega)) (by omega)

/-- What the end of a macroblock can do. -/
theorem endMacroblock_cases (s : State) :
    (storeMacroblock s = none ∧ endMacroblock s = .fault .rasterBounds) ∨
    (∃ t, storeMacroblock s = some t ∧ endMacroblock s = .next (nextMacroblock t)) := by
  unfold endMacroblock
  split
  · exact .inl ⟨by assumption, rfl⟩
  · rename_i t ht; exact .inr ⟨t, ht, rfl⟩

/-- The end of a block before the last one. -/
theorem endBlock_of_lt {s : State} (h : s.blockIdx.val < 5) :
    endBlock s = .next { idct s.blockIdx s with blockIdx := ⟨s.blockIdx.val + 1, by omega⟩, slot := .dc } := by
  simp only [endBlock, h, dif_pos]

/-- The end of the last block of a macroblock. -/
theorem endBlock_of_last {s : State} (h : ¬ s.blockIdx.val < 5) : endBlock s = endMacroblock (idct s.blockIdx s) := by
  simp only [endBlock, h, dif_neg, not_false_eq_true]

/-! ### The symbols of the AC loop -/

theorem runSymbol_cases (run : Nat) (s : State) :
    (s.limit < s.pos + runCodeLength run s ∧
      runSymbol run s = .next (raise .truncatedBlock (bcSkip (runCodeLength run s) s))) ∨
    (s.pos + runCodeLength run s ≤ s.limit ∧
      runSymbol run s = .next { bcSkip (runCodeLength run s) s with idx := s.idx + run, slot := .level }) :=
  skipc_cases _ _ _ _

theorem levelSymbol_cases (sg : BitVec 1) (m : Nat) (s : State) :
    let len := levelCodeLength (.level (withSign sg m)) s
    (s.limit < s.pos + len ∧ levelSymbol sg m s = .next (raise .truncatedBlock (bcSkip len s))) ∨
    (s.pos + len ≤ s.limit ∧ 63 < s.idx ∧ levelSymbol sg m s = .next (raise .truncatedBlock (bcSkip len s))) ∨
    (s.pos + len ≤ s.limit ∧ ∃ h : s.idx < 64,
      levelSymbol sg m s =
        .next { deqAc ⟨s.idx, h⟩ (withSign sg m) (bcSkip len s) with idx := s.idx + 1, slot := .run }) := by
  intro len
  unfold levelSymbol
  rcases skipc_cases len .truncatedBlock s (fun t => if h : t.idx < 64
    then .next { deqAc ⟨t.idx, h⟩ (withSign sg m) t with idx := t.idx + 1, slot := .run }
    else .next (raise .truncatedBlock t)) with ⟨h, e⟩ | ⟨h, e⟩
  · exact .inl ⟨h, e⟩
  · right
    rw [e]
    by_cases hi : s.idx < 64
    · exact .inr ⟨h, hi, by rw [dif_pos (show (bcSkip len s).idx < 64 from hi)]; rfl⟩
    · exact .inl ⟨h, by omega, by rw [dif_neg (show ¬ (bcSkip len s).idx < 64 from hi)]⟩

/-- At a window of the symbol, the length is the one `RUNTAB` holds there (R39). -/
theorem runCodeLength_of_entry {run len : Nat} {s : State} (h : runtab s.cfg (bcPeek 12 s) = some (len, run)) :
    runCodeLength run s = len := by
  simp [runCodeLength, h]

/-- At a window of the symbol, the length is the one `LEVTAB` holds there (R39). -/
theorem levelCodeLength_of_entry {v : LevelSymbol} {len : Nat} {s : State}
    (h : levtab s.cfg (bcPeek 15 s) = some (len, v)) : levelCodeLength v s = len := by
  simp [levelCodeLength, h]

end Sys2Proof.Machine
end

