-- ==== Sys2Proof/Laws/PerInstr.lean ====
section
/-! SUPPORT. Statements about every element as syntax, one lemma per constructor. -/

namespace Sys2Proof.Laws

open Sys2Proof

/-- The length of an element in bits (spec 30_encoding.md R71), written out by hand: the encoder must agree with it. -/
def tableLength (c : Cfg) : Instr → Nat
  | .alignPad pad => pad.length
  | .picHdr _ _ _ _ => 27 + c.hdrDiscardBits
  | .gobHdr _ _ => 22 + c.gobExtraBits
  | .eosMark => 22
  | .trailer _ => 22
  | .badMark _ => 22
  | .mbHdrC => 1
  | .mbHdr _ => 9
  | .mbHdrR _ _ => 11
  | .mbHdrInvalid _ => 9
  | .dc _ => 10
  | .run0 => 1
  | .run1 => 2
  | .run2 _ => 4
  | .run3 _ => 6
  | .run4 _ => 8
  | .run5 _ => 10
  | .run6 _ => 12
  | .runReserved => 7
  | .level0 _ => 2
  | .level2 _ _ => 5
  | .level3 _ _ => 7
  | .level4 _ _ => 9
  | .level5 _ _ => 11
  | .level6 _ _ => 13
  | .level7 _ _ => 15
  | .eob => 2
  | .levelReserved => 8

/-- With the `REF` code words (log 1), a well-formed element is encoded in exactly the bits R71 gives it. -/
def EncodedLength.Statement (i : Instr) : Prop :=
  ∀ c : Cfg, i.wf c = true → c.refCodes → bitLength c i = tableLength c i

/-- The length of a `REF` run code. -/
theorem runCodeOf_length {c : Cfg} (h : c.refCodes) (r : Nat) (hr : r < 64) :
    ((runCodeOf c.runTab r).getD []).length = if r < 2 then r + 1 else 2 * (r.log2 + 1) := by
  rw [h.2.1]
  have : ∀ r : Fin 64, ((runCodeOf Config.runTabRef r.val).getD []).length =
      if r.val < 2 then r.val + 1 else 2 * (r.val.log2 + 1) := by
    decide +kernel
  exact this ⟨r, hr⟩

/-- The length of a `REF` level code. -/
theorem levelCodeOf_length {c : Cfg} (h : c.refCodes) (sg : BitVec 1) (m : Nat) (hm : m < 128) (h0 : 0 < m) :
    ((levelCodeOf c.levTab (.level (withSign sg m))).getD []).length = if m = 1 then 2 else 2 * (m.log2 + 1) + 1 := by
  rw [h.2.2]
  have : ∀ (sg : BitVec 1) (m : Fin 128), 0 < m.val →
      ((levelCodeOf Config.levTabRef (.level (withSign sg m.val))).getD []).length =
        if m.val = 1 then 2 else 2 * (m.val.log2 + 1) + 1 := by
    decide +kernel
  exact this sg ⟨m, hm⟩ h0

/-- The binary logarithm of a number from its leading power of two. -/
theorem log2_two_pow_add (k x : Nat) (h : x < 2 ^ k) : (2 ^ k + x).log2 = k := by
  refine (Nat.log2_eq_iff (by have := Nat.two_pow_pos k; omega)).mpr ⟨by omega, by rw [Nat.pow_succ]; omega⟩

theorem EncodedLength.alignPad (pad : Bits) : EncodedLength.Statement (.alignPad pad) := by intro c _ _; simp [bitLength, encode, tableLength]

theorem EncodedLength.picHdr (psc : Marker) (fmt : BitVec 2) (scale : BitVec 3) (d : Bits) : EncodedLength.Statement (.picHdr psc fmt scale d) := by
  intro c h _; simp only [Instr.wf, beq_iff_eq] at h; simp [bitLength, encode, tableLength, h]; omega

theorem EncodedLength.gobHdr (m : Marker) (d : Bits) : EncodedLength.Statement (.gobHdr m d) := by
  intro c h _; simp only [Instr.wf, Bool.and_eq_true, beq_iff_eq] at h; simp [bitLength, encode, tableLength, h.2]

theorem EncodedLength.eosMark : EncodedLength.Statement .eosMark := by intro c _ _; simp [bitLength, encode, tableLength]

theorem EncodedLength.trailer (m : Marker) : EncodedLength.Statement (.trailer m) := by intro c _ _; simp [bitLength, encode, tableLength]

theorem EncodedLength.badMark (m : Marker) : EncodedLength.Statement (.badMark m) := by intro c _ _; simp [bitLength, encode, tableLength]

theorem EncodedLength.mbHdrC : EncodedLength.Statement .mbHdrC := by intro c _ _; simp [bitLength, encode, tableLength]

theorem EncodedLength.mbHdr (f : BitVec 6) : EncodedLength.Statement (.mbHdr f) := by intro c _ _; simp [bitLength, encode, tableLength]

theorem EncodedLength.mbHdrR (f : BitVec 6) (r : BitVec 2) : EncodedLength.Statement (.mbHdrR f r) := by intro c _ _; simp [bitLength, encode, tableLength]

theorem EncodedLength.mbHdrInvalid (l : BitVec 7) : EncodedLength.Statement (.mbHdrInvalid l) := by intro c _ _; simp [bitLength, encode, tableLength]

theorem EncodedLength.dc (v : BitVec 10) : EncodedLength.Statement (.dc v) := by intro c _ _; simp [bitLength, encode, tableLength]

theorem EncodedLength.run0 : EncodedLength.Statement .run0 := by
  intro c _ h; exact runCodeOf_length h 0 (by decide)

theorem EncodedLength.run1 : EncodedLength.Statement .run1 := by
  intro c _ h; exact runCodeOf_length h 1 (by decide)

theorem EncodedLength.run2 (x : BitVec 1) : EncodedLength.Statement (.run2 x) := by
  intro c _ h
  have hx : x.toNat < 2 ^ 1 := x.isLt
  show ((runCodeOf c.runTab (2 ^ 1 + x.toNat)).getD []).length = _
  rw [runCodeOf_length h _ (by omega), if_neg (by omega), log2_two_pow_add _ _ hx]; rfl

theorem EncodedLength.run3 (x : BitVec 2) : EncodedLength.Statement (.run3 x) := by
  intro c _ h
  have hx : x.toNat < 2 ^ 2 := x.isLt
  show ((runCodeOf c.runTab (2 ^ 2 + x.toNat)).getD []).length = _
  rw [runCodeOf_length h _ (by omega), if_neg (by omega), log2_two_pow_add _ _ hx]; rfl

theorem EncodedLength.run4 (x : BitVec 3) : EncodedLength.Statement (.run4 x) := by
  intro c _ h
  have hx : x.toNat < 2 ^ 3 := x.isLt
  show ((runCodeOf c.runTab (2 ^ 3 + x.toNat)).getD []).length = _
  rw [runCodeOf_length h _ (by omega), if_neg (by omega), log2_two_pow_add _ _ hx]; rfl

theorem EncodedLength.run5 (x : BitVec 4) : EncodedLength.Statement (.run5 x) := by
  intro c _ h
  have hx : x.toNat < 2 ^ 4 := x.isLt
  show ((runCodeOf c.runTab (2 ^ 4 + x.toNat)).getD []).length = _
  rw [runCodeOf_length h _ (by omega), if_neg (by omega), log2_two_pow_add _ _ hx]; rfl

theorem EncodedLength.run6 (x : BitVec 5) : EncodedLength.Statement (.run6 x) := by
  intro c _ h
  have hx : x.toNat < 2 ^ 5 := x.isLt
  show ((runCodeOf c.runTab (2 ^ 5 + x.toNat)).getD []).length = _
  rw [runCodeOf_length h _ (by omega), if_neg (by omega), log2_two_pow_add _ _ hx]; rfl

theorem EncodedLength.runReserved : EncodedLength.Statement .runReserved := by
  intro c _ h; show ((runReservedOf c.runTab).getD []).length = 7; rw [h.2.1]; decide +kernel

theorem EncodedLength.level0 (s : BitVec 1) : EncodedLength.Statement (.level0 s) := by
  intro c _ h; exact levelCodeOf_length h s 1 (by decide) (by decide)

theorem EncodedLength.level2 (x : BitVec 1) (s : BitVec 1) : EncodedLength.Statement (.level2 x s) := by
  intro c _ h
  have hx : x.toNat < 2 ^ 1 := x.isLt
  show ((levelCodeOf c.levTab (.level (withSign s (2 ^ 1 + x.toNat)))).getD []).length = _
  rw [levelCodeOf_length h _ _ (by omega) (by omega), if_neg (by omega), log2_two_pow_add _ _ hx]; rfl

theorem EncodedLength.level3 (x : BitVec 2) (s : BitVec 1) : EncodedLength.Statement (.level3 x s) := by
  intro c _ h
  have hx : x.toNat < 2 ^ 2 := x.isLt
  show ((levelCodeOf c.levTab (.level (withSign s (2 ^ 2 + x.toNat)))).getD []).length = _
  rw [levelCodeOf_length h _ _ (by omega) (by omega), if_neg (by omega), log2_two_pow_add _ _ hx]; rfl

theorem EncodedLength.level4 (x : BitVec 3) (s : BitVec 1) : EncodedLength.Statement (.level4 x s) := by
  intro c _ h
  have hx : x.toNat < 2 ^ 3 := x.isLt
  show ((levelCodeOf c.levTab (.level (withSign s (2 ^ 3 + x.toNat)))).getD []).length = _
  rw [levelCodeOf_length h _ _ (by omega) (by omega), if_neg (by omega), log2_two_pow_add _ _ hx]; rfl

theorem EncodedLength.level5 (x : BitVec 4) (s : BitVec 1) : EncodedLength.Statement (.level5 x s) := by
  intro c _ h
  have hx : x.toNat < 2 ^ 4 := x.isLt
  show ((levelCodeOf c.levTab (.level (withSign s (2 ^ 4 + x.toNat)))).getD []).length = _
  rw [levelCodeOf_length h _ _ (by omega) (by omega), if_neg (by omega), log2_two_pow_add _ _ hx]; rfl

theorem EncodedLength.level6 (x : BitVec 5) (s : BitVec 1) : EncodedLength.Statement (.level6 x s) := by
  intro c _ h
  have hx : x.toNat < 2 ^ 5 := x.isLt
  show ((levelCodeOf c.levTab (.level (withSign s (2 ^ 5 + x.toNat)))).getD []).length = _
  rw [levelCodeOf_length h _ _ (by omega) (by omega), if_neg (by omega), log2_two_pow_add _ _ hx]; rfl

theorem EncodedLength.level7 (x : BitVec 6) (s : BitVec 1) : EncodedLength.Statement (.level7 x s) := by
  intro c _ h
  have hx : x.toNat < 2 ^ 6 := x.isLt
  show ((levelCodeOf c.levTab (.level (withSign s (2 ^ 6 + x.toNat)))).getD []).length = _
  rw [levelCodeOf_length h _ _ (by omega) (by omega), if_neg (by omega), log2_two_pow_add _ _ hx]; rfl

theorem EncodedLength.eob : EncodedLength.Statement .eob := by
  intro c _ h; show ((levelCodeOf c.levTab .eob).getD []).length = 2; rw [h.2.2]; decide +kernel

theorem EncodedLength.levelReserved : EncodedLength.Statement .levelReserved := by
  intro c _ h; show ((levelReservedOf c.levTab).getD []).length = 8; rw [h.2.2]; decide +kernel

end Sys2Proof.Laws
end

