-- ==== Sys2Proof/Tests/Slice0.lean ====
section
/-! SUPPORT. The model's own tests. Expected values come from the spec: the encoding tables of 30_encoding.md, the vectors
of 95_test_vectors.md and the examples inside the rules; each test's comment names its source. Then, for each statement
with hypotheses, a concrete case that meets them (`witness_…`). -/

namespace Sys2Proof.Tests

open Sys2Proof Sys2Proof.Machine

-- One theorem after another: elaborated side by side, the kernel evaluations below would each hold a thread.
set_option Elab.async false

/-! ### Helpers -/

/-- `n` stream bits written as one binary number, the first stream bit the most significant. -/
def bin (n v : Nat) : Bits := (List.range n).map fun i => v.testBit (n - 1 - i)

/-- A state inside the slice loop of a 16 × 16 picture under `CfgT`, at stream bit 0 of a buffer that holds `bits`. -/
def mid (slot : Slot) (bits : Bits) : State :=
  { atStart Config.cfgT 0 (packBytes bits) with
      seq := .decodeSlices, slot := slot, fmt := 1, scale := 1, width := 16, height := 16, slices := 1, mbw := 1
      desc := 0xFF, raster := some [] }

/-- The outcome is a next state of which `p` holds. -/
def after (o : Out) (p : State → Bool) : Bool :=
  match o with
  | .next t => p t
  | .fault _ => false
  | .refused _ => false

theorem exists_next {o : Out} {p : State → Bool} (h : after o p = true) : ∃ t, o = .next t ∧ p t = true := by
  cases o with
  | next t => exact ⟨t, rfl, h⟩
  | fault r => cases h
  | refused r => cases h

/-! ### WellFormed: each check refuses an ill-formed term -/

/-- R76: at most 7 padding bits. -/
theorem test_wf_refuses_eight_padding_bits :
    (Instr.alignPad (List.replicate 8 false)).wf Config.ref = false ∧
    (Instr.alignPad (List.replicate 7 false)).wf Config.ref = true := by decide +kernel

/-- R72: the header discards `HDR_DISCARD_BITS` = 40 bits. -/
theorem test_wf_refuses_short_header :
    (Instr.picHdr 0x20 1 1 (List.replicate 39 false)).wf Config.ref = false ∧
    (Instr.picHdr 0x20 1 1 (List.replicate 40 false)).wf Config.ref = true := by decide +kernel

/-- R73, R74: `EOS` is no slice start. -/
theorem test_wf_refuses_eos_as_slice_start : (Instr.gobHdr 0x3F []).wf Config.ref = false := by decide +kernel

/-- R73: a slice start matches `GOB_MATCH` under `GOB_MASK`. -/
theorem test_wf_refuses_unmatched_slice_start : (Instr.gobHdr 0x40 []).wf Config.ref = false := by decide +kernel

/-- R73: `GOB_EXTRA_BITS` bits follow the marker. -/
theorem test_wf_refuses_extra_bits_after_slice_start :
    (Instr.gobHdr 0x21 [true]).wf Config.ref = false ∧ (Instr.gobHdr 0x21 []).wf Config.ref = true := by decide +kernel

/-- R81: a bad marker is not `EOS`. -/
theorem test_wf_refuses_eos_as_bad_marker : (Instr.badMark 0x3F).wf Config.ref = false := by decide +kernel

/-- R81: a bad marker is no slice start. -/
theorem test_wf_refuses_slice_start_as_bad_marker :
    (Instr.badMark 0x21).wf Config.ref = false ∧ (Instr.badMark 0x40).wf Config.ref = true := by decide +kernel

/-- A table with one code: `1` is run 0. -/
def oneRun : CodeTable RunEntry := .branch .reserved (.entry { lenPred := 0, run := 0 })

/-- A table with one code: `1` and any bit is the level -1. -/
def oneLevel : CodeTable LevelEntry := .branch .reserved (.entry { lenPred := 0, value := .level true 0 })

/-- R39: a run value without a code. -/
theorem test_wf_refuses_run_without_a_code :
    (Instr.run3 1).wf { Config.ref with runTab := oneRun } = false ∧ (Instr.run3 1).wf Config.ref = true := by
  decide +kernel

/-- R39: a level without a code. -/
theorem test_wf_refuses_level_without_a_code :
    (Instr.level0 0).wf { Config.ref with levTab := oneLevel } = false ∧
    (Instr.level0 1).wf { Config.ref with levTab := oneLevel } = true := by decide +kernel

/-- R39: no code of the sentinel. -/
theorem test_wf_refuses_eob_without_a_code :
    Instr.eob.wf { Config.ref with levTab := oneLevel } = false ∧ Instr.eob.wf Config.ref = true := by decide +kernel

/-- R81: a table without a reserved window. -/
theorem test_wf_refuses_reserved_without_a_pattern :
    Instr.runReserved.wf { Config.ref with runTab := .entry { lenPred := 0, run := 0 } } = false ∧
    Instr.levelReserved.wf { Config.ref with levTab := .entry { lenPred := 0, value := .eob } } = false ∧
    Instr.runReserved.wf Config.ref = true := by decide +kernel

/-! ### Decoding: a word written out from the spec's encoding of every element (30_encoding.md R72 to R81, R86) -/

theorem test_decode_alignPad : decode Config.ref .alignPad (bin 3 0b101) = .alignPad [true, false, true] := by
  decide +kernel

/-- start marker 0..010 0000, format 2, scale 5, then 40 bits of which the last is 1. -/
theorem test_decode_picHdr :
    decode Config.ref .picHdr (bin 22 0b0000000000000000100000 ++ bin 2 0b10 ++ bin 3 0b101 ++ bin 40 1) =
      .picHdr 0x20 2 5 (List.replicate 39 false ++ [true]) := by decide +kernel

theorem test_decode_gobHdr :
    decode Config.ref .sliceHdr (bin 22 0b0000000000000000100101) = .gobHdr 0x25 [] := by decide +kernel

/-- R74: the test for `EOS` comes before the slice start. -/
theorem test_decode_eosMark : decode Config.ref .sliceHdr (bin 22 0b0000000000000000111111) = .eosMark := by
  decide +kernel

theorem test_decode_trailer :
    decode Config.ref .trailer (bin 22 0b0000000000000000111111) = .trailer 0x3F := by decide +kernel

/-- Bit 16 wrong: 95_test_vectors.md, P3 V2. -/
theorem test_decode_badMark :
    decode Config.ref .sliceHdr (bin 22 0b0001000000000000100001) = .badMark 0x40021 := by decide +kernel

theorem test_decode_mbHdrC : decode Config.ref .mbHdr (bin 11 0b11000000000) = .mbHdrC := by decide +kernel

theorem test_decode_mbHdr : decode Config.ref .mbHdr (bin 11 0b01010000111) = .mbHdr 0b100001 := by decide +kernel

theorem test_decode_mbHdrR : decode Config.ref .mbHdr (bin 11 0b01101000110) = .mbHdrR 0b010001 2 := by decide +kernel

theorem test_decode_mbHdrInvalid :
    decode Config.ref .mbHdr (bin 11 0b00100001111) = .mbHdrInvalid 0b1000011 := by decide +kernel

theorem test_decode_dc : decode Config.ref .dc (bin 10 0b0101010100) = .dc 340 := by decide +kernel

/-- R78: every first-class code, with ones after it. -/
theorem test_decode_run_codes :
    decode Config.ref .run (bin 12 0b111111111111) = .run0 ∧
    decode Config.ref .run (bin 12 0b011111111111) = .run1 ∧
    decode Config.ref .run (bin 12 0b001011111111) = .run2 0 ∧
    decode Config.ref .run (bin 12 0b000110111111) = .run3 2 ∧
    decode Config.ref .run (bin 12 0b000010111111) = .run4 3 ∧
    decode Config.ref .run (bin 12 0b000001100111) = .run5 9 ∧
    decode Config.ref .run (bin 12 0b000000110001) = .run6 17 ∧
    decode Config.ref .run (bin 12 0b000000011111) = .runReserved := by decide +kernel

/-- R79: every second-class code, with ones after it. -/
theorem test_decode_level_codes :
    decode Config.ref .level (bin 15 0b111111111111111) = .level0 1 ∧
    decode Config.ref .level (bin 15 0b011111111111111) = .eob ∧
    decode Config.ref .level (bin 15 0b001011111111111) = .level2 0 1 ∧
    decode Config.ref .level (bin 15 0b000110011111111) = .level3 2 0 ∧
    decode Config.ref .level (bin 15 0b000010111111111) = .level4 3 1 ∧
    decode Config.ref .level (bin 15 0b000001100101111) = .level5 9 0 ∧
    decode Config.ref .level (bin 15 0b000000110001111) = .level6 17 1 ∧
    decode Config.ref .level (bin 15 0b000000011000010) = .level7 33 0 ∧
    decode Config.ref .level (bin 15 0b000000001111111) = .levelReserved := by decide +kernel

/-- A table in which run 0 has the two codes `1` and `001`, and twelve zeros are a code, of run 63. -/
def twoCodes : CodeTable RunEntry :=
  .ofTable 12 fun w =>
    if bitAt w 0 then some { lenPred := 0, run := 0 }
    else if bitAt w 2 then some { lenPred := 2, run := 0 }
    else if w.all (· == false) then some { lenPred := 11, run := 63 } else none

/-- R10 (P11), R35, R39: `RUNTAB` is a parameter. -/
theorem test_decode_other_code_tables :
    let c := { Config.ref with runTab := twoCodes }
    runtab c 0x800 = some (1, 0) ∧ runtab c 0x200 = some (3, 0) ∧ runtab c 0 = some (12, 63) ∧ runtab c 1 = none ∧
    decode c .run (bin 12 0x200) = .run0 ∧ decode c .run (bin 12 0) = .run6 31 := by decide +kernel

/-- R39: the second code of a symbol is consumed with its own length. -/
theorem test_step_second_code :
    after (step { mid .run (bin 12 0x200) with cfg := { Config.cfgT with runTab := twoCodes }, idx := 5 })
      (fun t => t.pos == 3 && t.idx == 5 && t.slot == .level) = true := by decide +kernel

/-- R84 and 95_test_vectors.md section 5, vector B3: the assembled block packs into the bytes shown there. -/
theorem test_assemble_b3 :
    packBytes (asmBits Config.ref 0 (asmBlockAc 0 [(62, -127)])) = [0x07, 0xF8, 0, 0, 0, 0, 0, 0xFD] := by decide +kernel

/-- The opcode table's `match` and `mask` of two rows, and what a word of each decodes to. -/
theorem test_table_words :
    decodeTableWord 16 0x307 = some (.mbHdrR 1 3) ∧ decodeTableWord 24 0x21 = some (.gobHdr 0x21 []) ∧
    decodeTableWord 8 0x16 = none := by decide +kernel

/-! ### Tables and operations -/

/-- R36, R40, R41 and 95_test_vectors.md E1: spot values of the tables. -/
theorem test_tables :
    Config.zigzagRef[3] = 16 ∧ Config.zigzagRef[11] = 25 ∧ Config.iquantRef[63] = 31 ∧
    Config.mbmapRef[64] = 8 ∧ Config.mbmapRef[128] = 128 ∧ Config.chromamapRef[255] = 63 := by decide +kernel

/-- R240, D30, and R10 P19: another table of codes. -/
theorem test_error_codes :
    Err.badTrailer.code Config.ref = 6 ∧ Err.noError.code Config.ref = 0 ∧
    Err.badTrailer.code { Config.ref with errCode := { Config.errCodeRef with badTrailer := 9 } } = 9 ∧
    State.reset.statusCode = (0, 0) := by decide +kernel

/-- R38: leading zeros of a byte. -/
theorem test_clz8 : clz8 0x80 = 0 ∧ clz8 0x7F = 1 ∧ clz8 0x01 = 7 ∧ clz8 0x00 = 8 := by decide +kernel

/-- 95_test_vectors.md, vector C5. -/
theorem test_align_counts :
    ([0, 1, 3, 4, 7, 8, 156, 205].map fun p => p + padLength p) = [0, 8, 8, 8, 8, 8, 160, 208] := by decide +kernel

/-- 95_test_vectors.md, vector C1, steps 1 to 3 and 8. -/
theorem test_cursor_c1 :
    let s := atStart Config.cfgT 0 [0x12, 0x34, 0x56, 0x78, 0x9A, 0xBC, 0xDE, 0xF0]
    (bcRead 4 s).1 = 0x7 ∧ (bcRead 8 (bcSkip 4 s)).1 = 0x85 ∧ bcPeek 12 (bcSkip 12 s) = 0x634 ∧
    bcPeek 32 (bcSkip 32 s) = 0xF0DEBC9A ∧ (bcSkip 64 s).overrun = false ∧ (bcSkip 72 s).overrun = true := by
  decide +kernel

/-- 95_test_vectors.md, vector C2: the bytes of a partial word keep their little-endian place. -/
theorem test_cursor_c2 :
    bcPeek 32 (bcSkip 32 (atStart Config.cfgT 0 [0x12, 0x34, 0x56, 0x78, 0x11])) = 0x00000011 := by decide +kernel

/-- 95_test_vectors.md, vector T6. -/
theorem test_kernel_t6 :
    k8 Config.ref #v[1, 2, 3, 4, 5, 6, 7, 8] = #v[230252, -203827, 86917, -68318, 40342, -29195, 15033, -5668] := by
  decide +kernel

/-- 95_test_vectors.md, vector T4: corners of the output. -/
theorem test_idct_t4 :
    let b := pass2 Config.ref (pass1 Config.ref (zeroBlock.set 63 3937))
    b[0] = 37 ∧ b[1] = -107 ∧ b[8] = -107 ∧ b[28] = -947 ∧ b[63] = 37 := by decide +kernel

/-- 95_test_vectors.md section 6, `DESCALE` corner cases. -/
theorem test_descale :
    descale (-1) 1 = 0 ∧ descale (-3) 1 = -1 ∧ descale 5 2 = 1 ∧ descale (-5) 2 = -1 ∧ descale 6 2 = 2 := by
  decide +kernel

/-- 95_test_vectors.md section 7, rows 8, 13, 15 and 16. -/
theorem test_csc :
    csc Config.ref 145 54 34 = (0, 255, 1) ∧ csc Config.ref 0 0 0 = (0, 135, 0) ∧
    csc Config.ref 100 300 (-20) = (0, 151, 255) ∧ csc Config.ref 128 124 128 = (130, 132, 122) := by decide +kernel

/-- 95_test_vectors.md section 7, `STORE`: pixel (16, 16) of a picture of width 32. -/
theorem test_pixel_address : pixelAddress 32 16 16 = 1584 := by decide +kernel

/-- R213: under `REF`, format 2 and scale 3 give 640 × 480. -/
theorem test_dimensions : widthOf Config.ref 2 3 = 640 ∧ heightOf Config.ref 2 3 = 480 := by decide +kernel

/-! ### One step per element -/

/-- R105: from bit 3 of a slice's end to bit 8, where a marker is read. -/
theorem test_step_alignPad :
    after (step { mid .alignPad (bin 32 0) with pos := 3 }) (fun t => t.pos == 8 && t.slot == .sliceHdr) = true := by
  decide +kernel

/-- 95_test_vectors.md P1: the header of a 16 × 16 picture. -/
theorem test_step_picHdr :
    after (step { atStart Config.cfgT 0 [0x20, 0x82, 0, 0, 0, 0, 0, 0, 0x54, 0x51, 0x05, 0x08] with slot := .picHdr })
      (fun t => t.pos == 67 && t.width == 16 && t.slices == 1 && t.slot == .mbHdr && t.raster == some []) = true := by
  decide +kernel

/-- 95_test_vectors.md P1 V9: format 0. -/
theorem test_step_picHdr_format_zero :
    after (step { atStart Config.cfgT 0 [0x20, 0x80, 0, 0, 0, 0, 0, 0, 0x54, 0x51, 0x05, 0x08] with slot := .picHdr })
      (fun t => t.seq == .failed && t.err == .invalidHeader && t.failPos == 24) = true := by decide +kernel

/-- R220. -/
theorem test_step_gobHdr :
    after (step { mid .sliceHdr (bin 22 0x21) with mbIdx := 5 })
      (fun t => t.pos == 22 && t.mbIdx == 0 && t.slot == .mbHdr) = true := by decide +kernel

/-- R219. -/
theorem test_step_eosMark :
    after (step (mid .sliceHdr (bin 22 0x3F))) (fun t => t.seq == .done && t.earlyEos && t.err == .noError) = true := by
  decide +kernel

/-- R222. -/
theorem test_step_trailer :
    after (step { mid .trailer (bin 22 0x3F) with seq := .readTrailer })
      (fun t => t.seq == .done && t.err == .noError && !t.earlyEos) = true := by decide +kernel

/-- R222, R246: the soft error. -/
theorem test_step_trailer_wrong :
    after (step { mid .trailer (bin 22 0x3E) with seq := .readTrailer })
      (fun t => t.seq == .done && t.err == .badTrailer && t.failPos == 22 && t.raster == some []) = true := by
  decide +kernel

/-- R218. -/
theorem test_step_badMark :
    after (step (mid .sliceHdr (bin 22 0x40021)))
      (fun t => t.seq == .failed && t.err == .badSliceMarker && t.failPos == 22) = true := by decide +kernel

/-- R181. -/
theorem test_step_mbHdrC :
    after (step (mid .mbHdr (bin 1 1)))
      (fun t => t.seq == .failed && t.err == .unsupportedMacroblock && t.failPos == 1 && t.desc == 0xFF) = true := by
  decide +kernel

/-- R182: `DESC` 0x8F, no reserved bits. -/
theorem test_step_mbHdr :
    after (step (mid .mbHdr (bin 9 0b010001111))) (fun t => t.pos == 9 && t.desc == 0x8F && t.slot == .dc) = true := by
  decide +kernel

/-- R183: two reserved bits. -/
theorem test_step_mbHdrR :
    after (step (mid .mbHdr (bin 11 0b01100111111)))
      (fun t => t.pos == 11 && t.desc == 0b11001111 && t.blockIdx == 0) = true := by decide +kernel

/-- R182, R244. -/
theorem test_step_mbHdrInvalid :
    after (step (mid .mbHdr (bin 9 0b001111110)))
      (fun t => t.err == .invalidDescriptor && t.failPos == 9 && t.desc == 0x7E) = true := by decide +kernel

/-- 95_test_vectors.md B1: `DC 1023`. -/
theorem test_step_dc :
    after (step { mid .dc (bin 10 1023) with idx := 9 })
      (fun t => t.pos == 10 && t.coef[0] == 3069 && t.idx == 1 && t.slot == .run) = true := by decide +kernel

/-- R168: a block without AC coefficients and DC 340 is 64 samples of 128. -/
theorem test_step_dc_flat :
    after (step { mid .dc (bin 10 340) with desc := 0x80 })
      (fun t => (t.spat[0])[63] == 128 && t.blockIdx == 1 && t.slot == .dc) = true := by decide +kernel

/-- 95_test_vectors.md section 3: the run codes; the longest ends at `LIMIT` = 32. -/
theorem test_step_runs :
    after (step (mid .run (bin 1 1))) (fun t => t.pos == 1 && t.idx == 1 && t.slot == .level) = true ∧
    after (step (mid .run (bin 2 1))) (fun t => t.pos == 2 && t.idx == 2) = true ∧
    after (step (mid .run (bin 4 0b0011))) (fun t => t.pos == 4 && t.idx == 4) = true ∧
    after (step (mid .run (bin 6 0b000111))) (fun t => t.pos == 6 && t.idx == 8) = true ∧
    after (step (mid .run (bin 8 0b00001111))) (fun t => t.pos == 8 && t.idx == 16) = true ∧
    after (step (mid .run (bin 10 0b0000011111))) (fun t => t.pos == 10 && t.idx == 32) = true ∧
    after (step { mid .run (bin 32 0b000000111111) with pos := 20 }) (fun t => t.pos == 32 && t.idx == 64) = true := by
  decide +kernel

/-- R129, 95_test_vectors.md B8. -/
theorem test_step_runReserved :
    after (step { mid .run (bin 32 0) with pos := 10 })
      (fun t => t.err == .truncatedBlock && t.failPos == 10 && t.pos == 10) = true := by decide +kernel

/-- 95_test_vectors.md section 3 and 4: levels at scan index 1, 3, 9, 63, where the multipliers are 5, 7, 9 and 31. -/
theorem test_step_levels :
    after (step (mid .level (bin 2 0b10))) (fun t => t.coef[1] == 5 && t.idx == 2 && t.slot == .run) = true ∧
    after (step { mid .level (bin 5 0b00111) with idx := 3 }) (fun t => t.coef[16] == -21 && t.pos == 5) = true ∧
    after (step { mid .level (bin 7 0b0001111) with idx := 3 }) (fun t => t.coef[16] == -49) = true ∧
    after (step { mid .level (bin 9 0b000010000) with idx := 9 }) (fun t => t.coef[24] == 72) = true ∧
    after (step { mid .level (bin 11 0b00000111111) with idx := 9 }) (fun t => t.coef[24] == -279) = true ∧
    after (step { mid .level (bin 13 0b0000001000000) with idx := 9 }) (fun t => t.coef[24] == 288) = true ∧
    after (step { mid .level (bin 15 0b000000011111111) with idx := 63 })
      (fun t => t.coef[63] == -3937 && t.idx == 64 && t.pos == 15) = true := by decide +kernel

/-- R128, 95_test_vectors.md B5: a level at scan index 64. -/
theorem test_step_level_past_the_block :
    after (step { mid .level (bin 2 0b10) with idx := 64 })
      (fun t => t.err == .truncatedBlock && t.failPos == 2 && t.coef == zeroBlock) = true := by decide +kernel

/-- R126, R160: the block is transformed as it stands. -/
theorem test_step_eob :
    after (step { mid .level (bin 2 1) with coef := zeroBlock.set 0 1020, idx := 64 })
      (fun t => t.pos == 2 && (t.spat[0])[9] == 128 && t.ws[8] == 2040 && t.blockIdx == 1) = true := by decide +kernel

/-- R184, R217, R221: after block 5 of the only macroblock comes the padding before the trailer. -/
theorem test_step_eob_last_block :
    after (step { mid .level (bin 2 1) with blockIdx := 5 })
      (fun t => t.seq == .readTrailer && t.slot == .alignPad && t.pos == 2) = true := by decide +kernel

/-- R190 and 95_test_vectors.md section 7, row 13: the last luma sample lands in the last pixel; samples of 0 are
(0, 135, 0). -/
theorem test_store_last_sample : storeSample (mid .level []) [] 255 = [(766, 135)] := by decide +kernel

/-- R129, 95_test_vectors.md B9. -/
theorem test_step_levelReserved :
    after (step (mid .level (bin 32 0b1111)))
      (fun t => t.err == .truncatedBlock && t.failPos == 0 && t.seq == .failed) = true := by decide +kernel

/-- R130, 95_test_vectors.md B13t: a code that ends past `LIMIT` is decoded and then truncated. -/
theorem test_step_run_cut_off :
    after (step { mid .run (bin 32 1) with pos := 28 })
      (fun t => t.err == .truncatedBlock && t.failPos == 34 && t.idx == 1) = true := by decide +kernel

/-! ### Reset -/

/-- R270: nothing executes before the first START. -/
theorem test_reset_waits : State.reset.running = false ∧ after (step State.reset) (fun t => t == State.reset) = true := by
  decide +kernel

/-- R210: START succeeds on a fresh instance, and the call runs; on a running one it is refused (R279, I19). -/
theorem test_start_on_a_fresh_instance :
    after (hostStart [1, 2, 3, 4] State.reset) (fun t => t.running && t.len == 4 && t.seq == .readHeader) = true ∧
    after (hostStart [] (atStart Config.ref 0 [])) (fun _ => true) = false := by decide +kernel

/-- R44, R270: a call on the empty buffer fails at the start marker (95_test_vectors.md E5). -/
theorem test_empty_buffer_run :
    after (Host.Core.run Sys2Proof.core 2 (atStart Config.ref 0 []))
      (fun t => t.seq == .failed && t.err == .truncatedInput && t.failPos == 22) = true := by decide +kernel

/-- The reset memory is canonical, and no raster exists. -/
theorem test_reset_memory : Memory.wf 0 State.reset.buf ∧ State.reset.raster = none := by decide +kernel

theorem reset_inv : State.reset.Inv :=
  ⟨⟨by decide, by decide⟩, (by intro m hm; cases hm), by
    show State.reset.pos = 0 ∧ (State.reset.slot = .alignPad ∨ State.reset.slot = .picHdr) ∧
      State.reset.raster = none ∧ State.reset.CleanInv
    decide +kernel, fun _ => ⟨rfl, rfl⟩⟩

/-! ### Cases that meet the statements' hypotheses -/

/-- The states `mid` of the slice loop meet the control invariant (one macroblock header position). -/
theorem mid_inv : (mid .mbHdr (bin 9 0b010001111)).Inv :=
  ⟨⟨by decide +kernel, by decide +kernel⟩, (by intro m hm; cases hm; decide +kernel), by
    show (mid .mbHdr (bin 9 0b010001111)).HeaderInv ∧ (mid .mbHdr (bin 9 0b010001111)).CleanInv ∧
      (mid .mbHdr (bin 9 0b010001111)).pos ≤ (mid .mbHdr (bin 9 0b010001111)).limit ∧
      (mid .mbHdr (bin 9 0b010001111)).sliceIdx < (mid .mbHdr (bin 9 0b010001111)).slices ∧
      (mid .mbHdr (bin 9 0b010001111)).mbIdx < (mid .mbHdr (bin 9 0b010001111)).mbw ∧ True
    decide +kernel, fun h => by cases h⟩

/-- A level position of the AC loop, at the last scan index. -/
def acState : State := { mid .level (bin 15 0b000000011111111) with idx := 63 }

theorem acState_inv : acState.Inv :=
  ⟨⟨by decide +kernel, by decide +kernel⟩, (by intro m hm; cases hm; decide +kernel), by
    show acState.HeaderInv ∧ acState.CleanInv ∧ acState.pos ≤ acState.limit ∧ acState.sliceIdx < acState.slices ∧
      acState.mbIdx < acState.mbw ∧ acState.desc.getLsbD 7 = true ∧ acState.hasAc acState.blockIdx = true ∧
      1 ≤ acState.idx ∧ acState.idx ≤ 127
    decide +kernel, fun h => by cases h⟩

theorem acState_dataInv : acState.DataInv := ⟨ref_wf, by decide +kernel, by decide +kernel⟩

/-- A slice marker position, at a byte boundary, before the second slice of two. -/
def markerState (bits : Bits) : State :=
  { mid .sliceHdr bits with scale := 2, width := 32, height := 32, slices := 2, mbw := 2, sliceIdx := 1, mbIdx := 1 }

theorem markerState_inv : (markerState (bin 22 0x3F)).Inv :=
  ⟨⟨by decide +kernel, by decide +kernel⟩, (by intro m hm; cases hm; decide +kernel), by
    show (markerState (bin 22 0x3F)).HeaderInv ∧ (markerState (bin 22 0x3F)).CleanInv ∧
      (markerState (bin 22 0x3F)).pos ≤ (markerState (bin 22 0x3F)).limit ∧
      (markerState (bin 22 0x3F)).sliceIdx < (markerState (bin 22 0x3F)).slices ∧
      (markerState (bin 22 0x3F)).mbIdx < (markerState (bin 22 0x3F)).mbw ∧
      0 < (markerState (bin 22 0x3F)).sliceIdx ∧ (markerState (bin 22 0x3F)).pos % 8 = 0
    decide +kernel, fun h => by cases h⟩

/-- A trailer position, at a byte boundary. -/
def trailerState (bits : Bits) : State := { mid .trailer bits with seq := .readTrailer }

theorem trailerState_inv : (trailerState (bin 22 0x3F)).Inv :=
  ⟨⟨by decide +kernel, by decide +kernel⟩, (by intro m hm; cases hm; decide +kernel), by
    show (trailerState (bin 22 0x3F)).HeaderInv ∧ (trailerState (bin 22 0x3F)).CleanInv ∧
      (trailerState (bin 22 0x3F)).pos ≤ (trailerState (bin 22 0x3F)).limit ∧
      (trailerState (bin 22 0x3F)).sliceIdx + 1 = (trailerState (bin 22 0x3F)).slices ∧
      (trailerState (bin 22 0x3F)).mbIdx + 1 = (trailerState (bin 22 0x3F)).mbw ∧
      ((trailerState (bin 22 0x3F)).slot = .alignPad ∨
        (trailerState (bin 22 0x3F)).slot = .trailer ∧ (trailerState (bin 22 0x3F)).pos % 8 = 0)
    decide +kernel, fun h => by cases h⟩

theorem witness_DecodeOfEncodeIsIdentity :
    Config.ref.codesWf ∧
    ((Instr.dc 1023).wf Config.ref = true ∧ ((Instr.dc 1023).slot = .alignPad → [true] = ([] : Bits))) ∧
    ((Instr.alignPad (bin 7 1)).wf Config.ref = true ∧ (Instr.alignPad (bin 7 1)).slot = .alignPad) :=
  ⟨ref_codesWf, by decide +kernel, by decide +kernel⟩

/-- A level, and a reserved run under the `REF` codes. -/
theorem witness_EncodeOfDecodeIsThePrefixRead :
    windowLength Config.ref 0 .level ≤ (bin 15 0x80).length ∧ decode Config.ref .level (bin 15 0x80) ≠ .runReserved ∧
    decode Config.ref .level (bin 15 0x80) ≠ .levelReserved ∧ Config.ref.oneCode ∧
    windowLength Config.ref 0 .alignPad ≤ ([] : Bits).length ∧
    decode Config.ref .run (bin 12 31) = .runReserved ∧ Config.ref.refCodes :=
  ⟨by decide +kernel, by decide +kernel, by decide +kernel, ref_oneCode, by decide +kernel, by decide +kernel,
    rfl, rfl, rfl⟩

theorem witness_DecodedElementIsWellFormed : (Slot.alignPad = .alignPad → (bin 7 0).length ≤ 7) := by decide +kernel

theorem witness_SymbolCodesArePrefixFree :
    Config.ref.codesWf ∧ (Instr.run6 31).wf Config.ref = true ∧ (Instr.run6 31).slot = (Instr.run6 31).slot ∧ (Instr.run6 31).slot = .run ∧
    encode Config.ref (.run6 31) <+: encode Config.ref (.run6 31) :=
  ⟨ref_codesWf, by decide +kernel, rfl, rfl, List.prefix_rfl⟩

/-- A reserved window and the first that is not; that window at the cursor, its code's last bit the last before `LIMIT`. -/
theorem witness_RunWindowsFollowRunDecode :
    (let s : State := { mid .run (bin 32 0x20) with pos := 20 }
     runtab s.cfg 31 = none ∧ runtab s.cfg 32 = some (12, 32) ∧ bcPeek 12 s = 32 ∧ s.pos + 12 = s.limit) ∧
    Config.ref.refCodes ∧ runDecode Config.ref 31 = none := ⟨by decide +kernel, ⟨rfl, rfl, rfl⟩, by decide +kernel⟩

theorem witness_LevelWindowsFollowLevelDecode :
    (let s : State := { mid .level (bin 32 0x80) with pos := 17, idx := 63 }
     levtab s.cfg 127 = none ∧ levtab s.cfg 128 = some (15, .level 64) ∧ bcPeek 15 s = 128 ∧ s.idx < 64 ∧
      s.pos + 15 = s.limit) ∧
    (let s : State := mid .level (bin 15 0x2000)
     levtab s.cfg 0x2000 = some (2, .eob) ∧ bcPeek 15 s = 0x2000) ∧
    Config.ref.refCodes ∧ levelDecode Config.ref 127 = none ∧ levelDecode Config.ref 0x2000 = some (2, .eob) :=
  ⟨by decide +kernel, by decide +kernel, ⟨rfl, rfl, rfl⟩, by decide +kernel, by decide +kernel⟩

theorem witness_AssembledSymbolsReadBack :
    Config.ref.codesWf ∧ Config.ref.refCodes ∧ (asmRun 63).wf Config.ref = true ∧
    (asmLevel (-127)).wf Config.ref = true ∧ (asmLevel 127).wf Config.ref = true ∧ (asmLevel 1).wf Config.ref = true :=
  ⟨ref_codesWf, ⟨rfl, rfl, rfl⟩, by decide +kernel⟩

theorem witness_SkipAddsToPositionOnly :
    { mid .run (bin 32 0) with pos := 33 }.overrun = true ∧ { mid .run (bin 32 0) with pos := 10 }.pos = 10 := by
  decide +kernel

/-- A buffer of 5 bytes: stream bit 31 is backed, the partial word's bit 32 is not, and bit 56 is in its one byte. -/
theorem witness_StreamBitsComeFromTheBufferThenZeros :
    let s := atStart Config.cfgT 0 [1, 2, 3, 4, 5]
    31 < s.limit ∧ streamByte 31 < s.len ∧ s.len ≤ streamByte 32 ∧ streamByte 56 < s.len := by decide +kernel

theorem witness_AlignStopsAtTheNextByteBoundary :
    (mid .alignPad (bin 32 0)).pos % 8 = 0 ∧
    { mid .alignPad (bin 32 0) with pos := 32 }.pos ≤ { mid .alignPad (bin 32 0) with pos := 32 }.limit := by
  decide +kernel

theorem witness_StepRunsTheElementAtTheCursor :
    (atStart Config.ref 0 []).running = true ∧ State.reset.running = false ∧
    { atStart Config.ref 0 [] with seq := .failed }.running = false := by decide

theorem witness_StepRunsTheEncodedElement :
    (mid .run (bin 6 0b000110)).cfg.codesWf ∧
    ((mid .run (bin 6 0b000110)).running = true ∧ (Instr.run3 2).wf (mid .run (bin 6 0b000110)).cfg = true ∧
      (mid .run (bin 6 0b000110)).slot = (Instr.run3 2).slot ∧
      encode (mid .run (bin 6 0b000110)).cfg (.run3 2) <+: (mid .run (bin 6 0b000110)).window 6) ∧
    (let s : State := { mid .alignPad (bin 32 0) with pos := 5 }
     s.running = true ∧ (Instr.alignPad (bin 3 0)).wf s.cfg = true ∧ s.slot = (Instr.alignPad (bin 3 0)).slot ∧
      bitLength s.cfg (.alignPad (bin 3 0)) = padLength s.pos ∧ encode s.cfg (.alignPad (bin 3 0)) <+: s.window 3) :=
  ⟨ref_codesWf, by decide +kernel, by decide +kernel⟩

theorem witness_NoElementMovesBackOrWritesInput :
    ∃ t, exec (.dc 340) (mid .dc (bin 10 340)) = .next t ∧ (t.pos == 10) = true :=
  exists_next (by decide +kernel)

theorem witness_ElementAdvancesByItsLength :
    acState.cfg.oneCode ∧
    (Instr.level7 63 1).wf acState.cfg = true ∧ (Instr.level7 63 1).slot ≠ .alignPad ∧
    ∃ t, exec (.level7 63 1) acState = .next t ∧ (t.seq != .failed) = true :=
  ⟨ref_oneCode, by decide +kernel, by decide, exists_next (by decide +kernel)⟩

theorem witness_StepNeverFaultsAndKeepsTheInvariant : acState.Inv ∧ (markerState (bin 22 0x3F)).Inv :=
  ⟨acState_inv, markerState_inv⟩

theorem witness_ResetAndStartSatisfyTheInvariants : Config.cfgT.wf := cfgT_wf

theorem witness_StepKeepsCoefficientsInRange :
    acState.Inv ∧ acState.DataInv ∧ ∃ t, step acState = .next t ∧ (t.coef[63] == -3937) = true :=
  ⟨acState_inv, acState_dataInv, exists_next (by decide +kernel)⟩

/-- A call, and an instance before its first START. -/
theorem witness_CallEndsWithinTheStepBound :
    (mid .mbHdr (bin 9 0b010001111)).Inv ∧ (mid .mbHdr (bin 9 0b010001111)).started = true ∧
    State.reset.Inv ∧ State.reset.started = false := ⟨mid_inv, rfl, reset_inv, rfl⟩

/-- One case for each clause: a step inside the slice loop, its end by a marker, and the end at the trailer. -/
theorem witness_SequencerMakesOnlyTheListedTransitions :
    (∃ t, step (markerState (bin 22 0x3F)) = .next t ∧ (t.seq == .done) = true) ∧
    (markerState (bin 22 0x3F)).seq = .decodeSlices ∧
    (∃ t, step (trailerState (bin 22 0x3F)) = .next t ∧ (t.seq == .done) = true) ∧
    (trailerState (bin 22 0x3F)).seq = .readTrailer ∧ (trailerState (bin 22 0x3F)).Inv :=
  ⟨exists_next (by decide +kernel), by decide +kernel, exists_next (by decide +kernel), by decide +kernel,
    trailerState_inv⟩

theorem witness_HeaderRegistersAreReadOnlyAfterReadHeader :
    acState.Inv ∧ acState.seq ≠ .readHeader ∧ ∃ t, step acState = .next t ∧ (t.width == 16) = true :=
  ⟨acState_inv, by decide +kernel, exists_next (by decide +kernel)⟩

theorem witness_HostClockInfluencesOnlyItself :
    (atStart Config.ref 7 []).dropClock = (atStart Config.ref 0 []).dropClock ∧
    ∃ t, Host.Core.run Sys2Proof.core 2 (atStart Config.ref 7 []) = .next t ∧ (t.seq == .failed) = true :=
  ⟨rfl, exists_next (by decide +kernel)⟩

theorem witness_ResultDependsOnTheBufferAlone :
    ∃ u v, hostStart [0x20] { atStart Config.ref 0 [] with seq := .failed, coef := zeroBlock.set 0 9 } = .next u ∧
      hostStart [0x20] { State.reset with clockDraws := 3 } = .next v ∧
      ∃ t, Host.Core.run Sys2Proof.core 2 u = .next t ∧ (t.seq == .failed) = true :=
  ⟨_, _, rfl, rfl, exists_next (by decide +kernel)⟩

theorem witness_UnspecifiedRegistersInfluenceNoResult :
    ∃ t, Host.Core.run Sys2Proof.core 2 (atStart Config.ref 0 []) = .next t ∧ (t.running == false) = true :=
  exists_next (by decide +kernel)

/-- An element of every clause: one that is no header, no macroblock header, no block element; DC; a marker; a failure. -/
theorem witness_EachElementChangesOnlyItsOwnRegisters :
    (∃ t, exec (.gobHdr 0x21 []) (markerState (bin 22 0x21)) = .next t ∧ (t.seq != .failed) = true) ∧
    (Instr.gobHdr 0x21 []).slot ≠ .picHdr ∧ (Instr.gobHdr 0x21 []).slot ≠ .mbHdr ∧ (Instr.gobHdr 0x21 []).slot ≠ .dc ∧
    (Instr.gobHdr 0x21 []).slot ≠ .run ∧ (Instr.gobHdr 0x21 []).slot ≠ .level ∧ Instr.gobHdr 0x21 [] ≠ .eob ∧
    Instr.gobHdr 0x21 [] ≠ .eosMark ∧ (Instr.gobHdr 0x21 []).slot ≠ .trailer ∧
    (1 : Fin 6) ≠ (markerState (bin 22 0x21)).blockIdx :=
  ⟨exists_next (by decide +kernel), by decide +kernel⟩

/-- The last block of macroblock (0, 0) of a picture 32 wide: byte 48 is the first to the right of the footprint. -/
theorem witness_RasterChangesOnlyInsideTheMacroblock :
    let s : State := { mid .level (bin 2 1) with blockIdx := 5, scale := 2, width := 32, height := 32, slices := 2, mbw := 2 }
    Instr.eob.slot ≠ .picHdr ∧ s.RasterInv ∧ (∃ t, exec .eob s = .next t ∧ (t.mbIdx == 1) = true) ∧
    (∀ j : Fin 256, 48 < pixelAddress s.width (pixelX s j) (pixelY s j) ∨
      pixelAddress s.width (pixelX s j) (pixelY s j) + 2 < 48) ∧
    (Instr.run0.slot ≠ .dc ∧ Instr.run0 ≠ .eob) ∧ (mid .level (bin 2 1)).blockIdx ≠ 5 :=
  ⟨by decide, by intro m hm; cases hm; decide +kernel, exists_next (by decide +kernel), by decide +kernel, by decide,
    by decide +kernel⟩

theorem witness_FailingElementLeavesTheRaster :
    (mid .run (bin 32 0)).seq ≠ .failed ∧
    ∃ t, exec .runReserved (mid .run (bin 32 0)) = .next t ∧ (t.seq == .failed) = true :=
  ⟨by decide +kernel, exists_next (by decide +kernel)⟩

/-- Twelve bytes are `LIMIT` = 96 bits; the 67-bit header ends exactly there from bit 29. -/
def headerState (pos : Nat) : State := { atStart Config.cfgT 0 (List.replicate 12 0) with slot := .picHdr, pos := pos }

theorem witness_PicHdrCompletes :
    (headerState 29).pos + (27 + (headerState 29).cfg.hdrDiscardBits) = (headerState 29).limit ∧ (3 : BitVec 2) ≠ 0 ∧
    (7 : BitVec 3) ≠ 0 ∧
    dimsOk (headerState 29).cfg (widthOf (headerState 29).cfg 3 7) (heightOf (headerState 29).cfg 3 7) = true := by
  decide +kernel

/-- Each clause at the last position where its field still fits; the dimensions 88 × 72 of format 1 under `REF` fail. -/
theorem witness_PicHdrRejectsIllegalFields :
    (0x21 : Marker) ≠ (headerState 74).cfg.psc ∧ (headerState 74).pos + 22 = (headerState 74).limit ∧
    (headerState 72).cfg.psc = (0x20 : Marker) ∧ (headerState 72).pos + 24 = (headerState 72).limit ∧
    (headerState 69).pos + 27 = (headerState 69).limit ∧ (1 : BitVec 2) ≠ 0 ∧ (1 : BitVec 3) ≠ 0 ∧
    (headerState 29).pos + (27 + (headerState 29).cfg.hdrDiscardBits) = (headerState 29).limit ∧
    dimsOk Config.ref (widthOf Config.ref 1 1) (heightOf Config.ref 1 1) = false := by decide +kernel

/-- Each clause one bit past the last position where its field fits. -/
theorem witness_PicHdrCutOffIsTruncatedInput :
    (headerState 75).limit < (headerState 75).pos + 22 ∧
    ((headerState 73).pos + 22 ≤ (headerState 73).limit ∧ (headerState 73).limit < (headerState 73).pos + 24) ∧
    ((headerState 70).pos + 24 ≤ (headerState 70).limit ∧ (headerState 70).limit < (headerState 70).pos + 27) ∧
    ((headerState 69).pos + 27 ≤ (headerState 69).limit ∧
      (headerState 69).limit < (headerState 69).pos + (27 + (headerState 69).cfg.hdrDiscardBits)) ∧
    (headerState 69).cfg.psc = (0x20 : Marker) := by decide +kernel

theorem witness_SliceMarkersComplete :
    let s : State := { markerState (bin 32 0) with pos := 10 }
    s.pos + (22 + s.cfg.gobExtraBits) = s.limit ∧ s.pos + 22 = s.limit := by decide +kernel

theorem witness_TrailerCompletes :
    let s : State := { trailerState (bin 32 0) with pos := 10 }
    s.pos + 22 = s.limit ∧ (0x3F : Marker) = s.cfg.eop ∧ (0x3E : Marker) ≠ s.cfg.eop := by decide +kernel

theorem witness_BadMarkRaisesBadSliceMarker :
    { markerState (bin 32 0) with pos := 10 }.pos + 22 = (markerState (bin 32 0)).limit := by decide +kernel

theorem witness_MarkersCutOffAreTruncatedInput :
    (markerState (bin 32 0)).limit < { markerState (bin 32 0) with pos := 11 }.pos + 22 ∧
    (let s : State := { markerState (bin 32 0) with pos := 10, cfg := { Config.cfgT with gobExtraBits := 1 } }
     s.pos + 22 ≤ s.limit ∧ s.limit < s.pos + (22 + s.cfg.gobExtraBits)) := by decide +kernel

theorem witness_MbHdrCompletes :
    { mid .mbHdr (bin 32 0) with pos := 23 }.pos + 9 = (mid .mbHdr (bin 32 0)).limit ∧
    { mid .mbHdr (bin 32 0) with pos := 21 }.pos + 11 = (mid .mbHdr (bin 32 0)).limit := by decide +kernel

theorem witness_IllegalMbHdrRaises :
    { mid .mbHdr (bin 32 0) with pos := 31 }.pos + 1 = (mid .mbHdr (bin 32 0)).limit ∧
    { mid .mbHdr (bin 32 0) with pos := 23 }.pos + 9 = (mid .mbHdr (bin 32 0)).limit := by decide +kernel

theorem witness_MbHdrCutOffIsTruncatedInput :
    (mid .mbHdr (bin 32 0)).limit < { mid .mbHdr (bin 32 0) with pos := 32 }.pos + 1 ∧
    ({ mid .mbHdr (bin 32 0) with pos := 31 }.pos + 1 ≤ (mid .mbHdr (bin 32 0)).limit ∧
      (mid .mbHdr (bin 32 0)).limit < { mid .mbHdr (bin 32 0) with pos := 24 }.pos + 9) ∧
    ({ mid .mbHdr (bin 32 0) with pos := 23 }.pos + 9 ≤ (mid .mbHdr (bin 32 0)).limit ∧
      (mid .mbHdr (bin 32 0)).limit < { mid .mbHdr (bin 32 0) with pos := 22 }.pos + 11) := by decide +kernel

theorem witness_DcOfAnAcBlockCompletes :
    let s : State := { mid .dc (bin 32 0) with pos := 22, blockIdx := 5 }
    s.pos + 10 = s.limit ∧ s.desc.getLsbD s.blockIdx.val = true := by decide +kernel

theorem witness_DcOfAFlatBlockCompletes :
    let s : State := { mid .dc (bin 32 0) with pos := 22, blockIdx := 4, desc := 0x80 }
    s.blockIdx.val < 5 ∧ s.pos + 10 = s.limit ∧ s.desc.getLsbD s.blockIdx.val = false := by decide +kernel

theorem witness_EobCompletes :
    let s : State := { mid .level (bin 32 0) with pos := 30, blockIdx := 4 }
    s.blockIdx.val < 5 ∧ s.pos + s.elementLength .eob = s.limit ∧ s.cfg.refCodes :=
  ⟨by decide, by decide +kernel, rfl, rfl, rfl⟩

/-- The footprint that just fits, one that does not, and the three places that can follow. -/
theorem witness_LastBlockStoresTheMacroblock :
    let s : State := { mid .level (bin 32 0) with pos := 22, blockIdx := 5, desc := 0x80 }
    s.blockIdx = 5 ∧ s.raster = some [] ∧ footprintInside s = true ∧ s.pos + 10 = s.limit ∧
    s.pos + s.elementLength .eob ≤ s.limit ∧
    s.desc.getLsbD 5 = false ∧ footprintInside { s with mbIdx := 1 } = false ∧
    s.mbIdx + 1 < { s with mbw := 2 }.mbw ∧ (s.mbw ≤ s.mbIdx + 1 ∧ s.sliceIdx + 1 < { s with slices := 2 }.slices) ∧
    s.slices ≤ s.sliceIdx + 1 := by decide +kernel

theorem witness_MacroblockStoreWritesItsPixelsOnly :
    (mid .level []).cfg.mbmap.toList.Nodup ∧ (mid .level []).RasterInv ∧
    (storeMacroblock (mid .level [])).isSome = true ∧
    (∀ j : Fin 256, 768 < pixelAddress 16 (pixelX (mid .level []) j) (pixelY (mid .level []) j) ∨
      pixelAddress 16 (pixelX (mid .level []) j) (pixelY (mid .level []) j) + 2 < 768) :=
  ⟨ref_wf.2.2.2.1, by intro m hm; cases hm; decide +kernel, by decide +kernel, by decide +kernel⟩

theorem witness_PixelIsTheConvertedSampleOfItsPlace :
    (mid .level []).cfg.mbmap = Config.mbmapRef ∧ (mid .level []).cfg.chromamap = Config.chromamapRef ∧
    (mid .level []).RasterInv ∧ (storeMacroblock (mid .level [])).isSome = true :=
  ⟨rfl, rfl, by intro m hm; cases hm; decide +kernel, by decide +kernel⟩

/-- Each code ends at `LIMIT` = 32 from the position given. -/
theorem witness_RunCodesComplete :
    (∀ i ∈ [Instr.run0, .run1, .run2 0, .run3 0, .run4 0, .run5 0, .run6 31],
      { mid .run (bin 32 0) with pos := 32 - bitLength Config.ref i }.pos +
        { mid .run (bin 32 0) with pos := 32 - bitLength Config.ref i }.elementLength i = (mid .run (bin 32 0)).limit) ∧
    (mid .run []).cfg.refCodes := ⟨by decide +kernel, rfl, rfl, rfl⟩

theorem witness_LevelCodesComplete :
    (Instr.level7 63 1).levelOf = some (15, -127) ∧ (Instr.level0 0).levelOf = some (2, 1) ∧ acState.idx < 64 ∧
    { acState with pos := 17 }.pos + { acState with pos := 17 }.elementLength (.level7 63 1) = acState.limit ∧
    acState.cfg.refCodes := ⟨rfl, rfl, by decide, by decide +kernel, rfl, rfl, rfl⟩

theorem witness_LevelPastTheLastCoefficientRaises :
    (Instr.level7 63 1).levelOf = some (15, -127) ∧ 64 ≤ { acState with idx := 64 }.idx ∧
    { acState with pos := 17 }.pos + { acState with pos := 17, idx := 64 }.elementLength (.level7 63 1) = acState.limit := by decide +kernel

theorem witness_BlockCodesCutOffAreTruncatedBlock :
    let s : State := { mid .dc (bin 32 0) with pos := 31 }
    s.limit < s.pos + 10 ∧ s.limit < s.pos + s.elementLength .eob ∧
    ((Instr.run6 0).runOf = some (12, 32) ∧ s.limit < s.pos + s.elementLength (.run6 0)) ∧
    ((Instr.level7 0 0).levelOf = some (15, 64) ∧ s.limit < s.pos + s.elementLength (.level7 0 0)) := by decide +kernel

theorem witness_DequantizedDcIsTheProduct : (mid .dc []).cfg.iquant = Config.iquantRef := by decide +kernel

theorem witness_DequantizedAcIsTheProduct :
    (mid .dc []).cfg.wf ∧ (-127 : Int) ≠ 0 ∧ (mid .dc []).cfg.zigzag = Config.zigzagRef ∧
    (mid .dc []).cfg.iquant = Config.iquantRef := ⟨ref_wf, by decide, rfl, rfl⟩

theorem witness_DescaleRoundsToNearestTiesUp : (1 : Nat) ≤ 1 := by decide

/-- A column and a row with only a first entry. -/
theorem witness_DcFastPathIsBitIdentical :
    Config.ref.wf ∧ (∀ r : Fin 8, r ≠ 0 → (zeroBlock.set 7 (-9))[8 * r.val + (7 : Fin 8).val] = 0) ∧
    (∀ j : Fin 8, j ≠ 0 → (zeroBlock.set 56 (-9))[8 * (7 : Fin 8).val + j.val] = 0) :=
  ⟨ref_wf, by decide +kernel, by decide +kernel⟩

/-- R189: a value below, above and inside the range. -/
theorem witness_NeutralChromaIsGray : (-1 : Int) < 0 ∧ (255 : Int) < 256 ∧ (0 : Int) ≤ 255 ∧ (255 : Int) ≤ 255 := by
  decide

theorem witness_HostSeesOnlyTheResult :
    (atStart Config.ref 0 []).running = true ∧ { atStart Config.ref 0 [] with seq := .failed }.seq = .failed ∧
    ({ atStart Config.ref 0 [] with seq := .done, err := .badTrailer }.err = .badTrailer) ∧
    ({ atStart Config.ref 0 [] with seq := .done }.err ≠ .badTrailer) ∧ State.reset.running = false ∧
    { atStart Config.ref 0 [] with seq := .done }.running = false ∧ State.reset.cfg.errCodesWf := by decide

end Sys2Proof.Tests
end

section
/-! SUPPORT. When a step runs, and what the host sees of a call (spec 45_slice_frame_sequencer.md R225, R229;
70_reset_and_hazards.md R270, R279). -/

namespace Sys2Proof.Machine

open Sys2Proof

/-! ### Running and stepping -/

/-- A call runs between `START` and its end (R210, R229). -/
theorem running_iff (s : State) : s.running = true ↔ s.started = true ∧ s.seq ≠ .done ∧ s.seq ≠ .failed := by
  unfold State.running
  split <;> simp [*]

theorem not_running_of_not_started {s : State} (h : s.started = false) : s.running = false := by
  rw [Bool.eq_false_iff, Ne, running_iff]
  simp [h]

theorem step_of_running {s : State} (h : s.running = true) : step s = exec (fetch s) s := by
  simp [step, h]

theorem step_of_not_running {s : State} (h : s.running = false) : step s = .next s := by
  simp [step, h]

/-- A state that a step leaves as it is stays through any number of steps. -/
theorem run_of_step_self {M : Host.Core} {s : M.State} (h : M.step s = .next s) (k : Nat) : M.run k s = .next s := by
  induction k with
  | zero => rfl
  | succ k ih => simp only [Host.Core.run, h, ih]

/-- Before the first `START` nothing executes (R270). -/
theorem step_resetOf (c : Cfg) : step (State.resetOf c) = .next (State.resetOf c) :=
  step_of_not_running (not_running_of_not_started rfl)

/-! ### The host's operations -/

theorem callResult_of_running {s : State} (h : s.running = true) : callResult s = none := by
  obtain ⟨-, hdone, hfailed⟩ := (running_iff s).mp h
  unfold callResult
  cases hs : s.seq
  case done => exact absurd hs hdone
  case failed => exact absurd hs hfailed
  all_goals rfl

theorem callResult_of_failed {s : State} (h : s.seq = .failed) : callResult s = some (.error s.err s.failPos) := by
  simp [callResult, h]

theorem callResult_of_suspect {s : State} (h : s.seq = .done) (he : s.err = .badTrailer) :
    callResult s = some (.suspect s.width s.height (rasterBytes s) s.decodeSeconds) := by
  simp [callResult, State.suspect, h, he]

theorem callResult_of_done {s : State} (h : s.seq = .done) (he : s.err ≠ .badTrailer) :
    callResult s = some (.ok s.width s.height (rasterBytes s) s.decodeSeconds s.earlyEos) := by
  simp [callResult, State.suspect, h, he]

theorem hostStart_of_running {s : State} (bytes : List Byte) (h : s.running = true) :
    hostStart bytes s = .refused .startWhileRunning := by
  simp [hostStart, h]

theorem hostStart_of_not_running {s : State} (bytes : List Byte) (h : s.running = false) :
    hostStart bytes s = .next (atStart s.cfg s.clockDraws bytes) := by
  simp [hostStart, h]

theorem hostWriteInput_of_running {s : State} (a : Nat) (b : Byte) (h : s.running = true) :
    hostWriteInput a b s = .refused .bufferChangedDuringCall := by
  simp [hostWriteInput, h]

/-- At the start of a call the buffer holds the given bytes (R210). -/
theorem read_atStart_buf (c : Cfg) (draws : Nat) (bytes : List Byte) (k : Nat) :
    Memory.read 0 (atStart c draws bytes).buf k = bytes.getD k 0 := by
  have h := Memory.read_ofBytes 0 0 bytes k
  rwa [if_pos (Nat.zero_le k)] at h

/-! ### The status codes -/

/-- The values of `SEQ` in the order of their codes (R26). -/
def Seq.all : List Seq := [.readHeader, .decodeSlices, .readTrailer, .done, .failed]

theorem Seq.mem_all (q : Seq) : q ∈ Seq.all := by cases q <;> decide

/-- The codes of `SEQ` tell its values apart (R26). -/
theorem Seq.code_injective : Function.Injective Seq.code := fun a b h =>
  List.inj_on_of_nodup_map (f := Seq.code) (l := Seq.all) (by decide) a.mem_all b.mem_all h

/-- The values of `ERR`, `None` first, then the kinds in the order of R240. -/
def Err.all : List Err :=
  [.noError, .truncatedInput, .invalidHeader, .unsupportedMacroblock, .invalidDescriptor, .badSliceMarker, .badTrailer,
    .truncatedBlock]

theorem Err.mem_all (k : Err) : k ∈ Err.all := by cases k <;> decide

theorem Err.map_code_all (c : Cfg) : Err.all.map (Err.code c) = 0 :: c.errCode.toList := rfl

/-- Codes that are all different tell the values of `ERR` apart (R27, R240). -/
theorem Err.code_injective {c : Cfg} (h : c.errCodesWf) : Function.Injective (Err.code c) := fun a b hab =>
  List.inj_on_of_nodup_map (Err.map_code_all c ▸ h) a.mem_all b.mem_all hab

/-- The host reads `STATUS` from its codes (R27, R34). -/
theorem status_eq_of_statusCode_eq {s t : State} (hc : s.cfg = t.cfg) (hw : s.cfg.errCodesWf)
    (h : s.statusCode = t.statusCode) : s.status = t.status := by
  obtain ⟨hseq, herr⟩ := Prod.mk.inj h
  rw [← hc] at herr
  exact Prod.ext (Seq.code_injective hseq) (Err.code_injective hw herr)

end Sys2Proof.Machine

namespace Sys2Proof.Proofs

open Sys2Proof Sys2Proof.Machine

/-- Settles O14, from the definition of a step and the sequencer states in which a call runs. -/
theorem stepRunsTheElementAtTheCursor : Obligations.StepRunsTheElementAtTheCursor := fun s =>
  ⟨step_of_running, step_of_not_running, running_iff s⟩

/-- Settles O60, clause by clause from what each operation of the host answers; that the codes of `STATUS` tell its values
apart is the injectivity of a map whose list of values has no value twice. -/
theorem hostSeesOnlyTheResult : Obligations.HostSeesOnlyTheResult := by
  have start_runs : ∀ c draws bytes, (atStart c draws bytes).running = true := fun _ _ _ => rfl
  exact
    ⟨fun _ => callResult_of_running, fun _ => callResult_of_failed, fun _ => callResult_of_suspect,
      fun _ => callResult_of_done,
      fun _ bytes a b h => ⟨hostStart_of_running bytes h, hostWriteInput_of_running a b h⟩,
      fun s bytes h => ⟨hostStart_of_not_running bytes h, rfl, start_runs _ _ _, read_atStart_buf _ _ bytes⟩,
      fun _ bytes => hostStart_of_not_running bytes (not_running_of_not_started rfl),
      fun c k => run_of_step_self (M := machineOf c) (s := State.resetOf c) (step_resetOf c) k,
      fun _ => rfl,
      fun _ _ => status_eq_of_statusCode_eq,
      fun s => List.mem_cons.mp (Err.code_mem s.cfg s.err),
      Err.map_code_all Config.ref, rfl, rfl⟩

end Sys2Proof.Proofs
end

section
/-! SUPPORT. The code tables read through bit runs: the windows of the reference tables by their leading zeros, and
`RUNTAB` and `LEVTAB` of `REF` as `RunDecode` and `LevelDecode` (spec 41_entropy_decoder.md R124, R125, R129). -/

namespace Sys2Proof

/-! ### Bit runs and their values -/

/-- Bit runs of one length with one value are equal. -/
theorem bits_eq_of_bitsToNat_eq {a b : Bits} (hl : a.length = b.length) (h : bitsToNat a = bitsToNat b) : a = b := by
  rw [← toBits_ofNat_bitsToNat a, ← toBits_ofNat_bitsToNat b, hl, h]

theorem toBits_eq_of {n : Nat} {v : BitVec n} {bits : Bits} (hl : bits.length = n) (h : v.toNat = bitsToNat bits) :
    toBits v = bits :=
  bits_eq_of_bitsToNat_eq (by rw [toBits_length, hl]) (by rw [bitsToNat_toBits, h])

/-- The window whose bits are given is the one `BitVec.ofNat` makes of their value. -/
theorem ofNat_bitsToNat_toBits {n : Nat} (v : BitVec n) : BitVec.ofNat n (bitsToNat (toBits v)) = v := by
  rw [bitsToNat_toBits, BitVec.ofNat_toNat, BitVec.setWidth_eq]

theorem bitsToNat_zeros_append (z : Nat) (bits : Bits) : bitsToNat (List.replicate z false ++ bits) = bitsToNat bits := by
  induction z with
  | zero => rfl
  | succ z ih => simpa [List.replicate_succ, bitsToNat] using ih

/-- The first `k` bits of a run, as a number. -/
theorem bitsToNat_take (k : Nat) (bits : Bits) :
    bitsToNat (bits.take k) = bitsToNat bits / 2 ^ (bits.length - k) := by
  have happ := bitsToNat_append (bits.take k) (bits.drop k)
  have hlt := bitsToNat_lt (bits.drop k)
  rw [List.take_append_drop, List.length_drop] at happ
  rw [List.length_drop] at hlt
  rw [happ, Nat.mul_comm, Nat.mul_add_div (Nat.two_pow_pos _), Nat.div_eq_of_lt hlt, Nat.add_zero]

/-- A value below `2^m` of a wider window is `z` zeros and `m` bits. -/
theorem toBits_of_lt {n z m : Nat} {w : BitVec n} (hn : n = z + m) (h : w.toNat < 2 ^ m) :
    toBits w = List.replicate z false ++ toBits (BitVec.ofNat m w.toNat) := by
  refine toBits_eq_of (by simp [hn]) ?_
  rw [bitsToNat_zeros_append, bitsToNat_toBits, BitVec.toNat_ofNat, Nat.mod_eq_of_lt h]

/-- A window of `z` leading zeros is these, a one, and the bits of what is left of its value. -/
theorem exists_bits_after_one {n z m : Nat} {w : BitVec n} (hn : n = z + 1 + m) (hlo : 2 ^ m ≤ w.toNat)
    (hhi : w.toNat < 2 ^ (m + 1)) :
    ∃ r : BitVec m, w.toNat = 2 ^ m + r.toNat ∧ toBits w = List.replicate z false ++ true :: toBits r := by
  rw [Nat.pow_succ] at hhi
  have hr : (BitVec.ofNat m (w.toNat - 2 ^ m)).toNat = w.toNat - 2 ^ m := by
    rw [BitVec.toNat_ofNat, Nat.mod_eq_of_lt (by omega)]
  refine ⟨BitVec.ofNat m (w.toNat - 2 ^ m), by omega, toBits_eq_of (by simp [hn]; omega) ?_⟩
  rw [bitsToNat_zeros_append, bitsToNat, bitsToNat_toBits, toBits_length, hr, Bool.toNat_true, Nat.one_mul]
  omega

/-- The `e` bits after the leading one of a number of `a + e + 1` bits, the last `a` dropped. -/
theorem bits_after_one {w m a e r : Nat} (hm : m = a + e) (hw : w = 2 ^ m + r) (h : r < 2 ^ m) :
    (w >>> a) % 2 ^ e = r / 2 ^ a := by
  rw [hm, Nat.pow_add] at h
  rw [hw, hm, Nat.shiftRight_eq_div_pow, Nat.pow_add, Nat.mul_add_div (Nat.two_pow_pos a), Nat.add_mod_left,
    Nat.mod_eq_of_lt (Nat.div_lt_of_lt_mul h)]

/-! ### Leading zeros -/

/-- What the number of leading zeros of a byte says about its value (R38). -/
theorem clz8_cases (b : BitVec 8) :
    (clz8 b = 8 ∧ b.toNat = 0) ∨ (clz8 b < 8 ∧ 2 ^ (7 - clz8 b) ≤ b.toNat ∧ b.toNat < 2 ^ (8 - clz8 b)) := by
  have hb : b.toNat < 256 := b.isLt
  simp only [clz8]
  split_ifs <;> norm_num <;> omega

/-- The leading zeros of the first eight bits of a window, and its value (R124, R125). -/
theorem clz8_top_cases {n k : Nat} (w : BitVec n) (hn : n = k + 8) :
    (clz8 (w.extractLsb' k 8) = 8 ∧ w.toNat < 2 ^ k) ∨
    ∃ z < 8, clz8 (w.extractLsb' k 8) = z ∧ 2 ^ (k + 7 - z) ≤ w.toNat ∧ w.toNat < 2 ^ (k + 8 - z) := by
  have hw : w.toNat / 2 ^ k < 2 ^ 8 := Nat.div_lt_of_lt_mul (by rw [← Nat.pow_add, ← hn]; exact w.isLt)
  have htop : (w.extractLsb' k 8).toNat = w.toNat / 2 ^ k := by
    rw [BitVec.extractLsb'_toNat, Nat.shiftRight_eq_div_pow, Nat.mod_eq_of_lt hw]
  have hpos := Nat.two_pow_pos k
  rcases clz8_cases (w.extractLsb' k 8) with ⟨hz, h0⟩ | ⟨hz, hlo, hhi⟩
  · rw [htop, Nat.div_eq_zero_iff] at h0
    exact .inl ⟨hz, h0.resolve_left (by omega)⟩
  · rw [htop] at hlo hhi
    refine .inr ⟨_, hz, rfl, ?_, ?_⟩
    · rw [show k + 7 - clz8 (w.extractLsb' k 8) = 7 - clz8 (w.extractLsb' k 8) + k by omega, Nat.pow_add]
      exact (Nat.le_div_iff_mul_le hpos).mp hlo
    · rw [show k + 8 - clz8 (w.extractLsb' k 8) = 8 - clz8 (w.extractLsb' k 8) + k by omega, Nat.pow_add]
      exact (Nat.div_lt_iff_lt_mul hpos).mp hhi

/-! ### Lookups in the tables the reference contents are made of -/

section
variable {α : Type}

/-- After `z` zeros and a one comes the table number `z`. -/
theorem lookup_unaryTable_one (ts : List (CodeTable α)) (z : Nat) (bits : Bits) :
    (unaryTable ts).lookup (List.replicate z false ++ true :: bits) = ts[z]?.bind fun t => t.lookup bits := by
  induction ts generalizing z with
  | nil => rfl
  | cons t ts ih =>
    cases z with
    | zero => rfl
    | succ z => simpa [unaryTable, List.replicate_succ, CodeTable.lookup] using ih z

/-- As many zeros as there are tables are reserved, whatever follows. -/
theorem lookup_unaryTable_zeros (ts : List (CodeTable α)) (bits : Bits) :
    (unaryTable ts).lookup (List.replicate ts.length false ++ bits) = none := by
  induction ts with
  | nil => rfl
  | cons t ts ih => simpa [unaryTable, List.replicate_succ, CodeTable.lookup] using ih

/-- A field table answers what its first `k` bits say. -/
theorem lookup_fieldTable (f : Nat → α) (k x : Nat) (bits : Bits) (h : k ≤ bits.length) :
    (fieldTable f k x).lookup bits = some (f (x * 2 ^ k + bitsToNat (bits.take k))) := by
  induction k generalizing x bits with
  | zero => simp [fieldTable, CodeTable.lookup, bitsToNat]
  | succ k ih =>
    cases bits with
    | nil => cases h
    | cons b bits =>
      have hk : k ≤ bits.length := by simpa using h
      cases b <;>
        simp [fieldTable, CodeTable.lookup, ih _ bits hk, bitsToNat, hk, Nat.pow_succ, Nat.add_mul, Nat.mul_comm,
          Nat.mul_assoc, Nat.add_assoc]

/-- A field table at the bits of a number of `a + k` bits. -/
theorem lookup_fieldTable_toBits (f : Nat → α) {m a k : Nat} (r : BitVec m) (hm : m = a + k) :
    (fieldTable f k 0).lookup (toBits r) = some (f (r.toNat / 2 ^ a)) := by
  have hk : k ≤ (toBits r).length := by rw [toBits_length]; omega
  rw [lookup_fieldTable f k 0 _ hk, bitsToNat_take, bitsToNat_toBits, toBits_length, Nat.zero_mul, Nat.zero_add,
    show m - k = a by omega]

end

/-! ### The decode tables -/

theorem runtab_of_lookup {c : Cfg} {w : BitVec 12} {e : RunEntry} (h : c.runTab.lookup (toBits w) = some e) :
    runtab c w = some (e.len, e.run.val) := by
  simp [runtab, h]

theorem levtab_of_lookup {c : Cfg} {w : BitVec 15} {e : LevelEntry} (h : c.levTab.lookup (toBits w) = some e) :
    levtab c w = some (e.len, e.value.symbol) := by
  simp [levtab, h]

/-- The tree over the windows' bits that holds a table given window by window (R10 P11, R39). -/
def tableTree {α : Type} {n : Nat} (table : BitVec n → Option α) : CodeTable α :=
  .ofTable n fun bits => table (BitVec.ofNat n (bitsToNat bits))

theorem lookup_tableTree {α : Type} {n : Nat} (table : BitVec n → Option α) (w : BitVec n) :
    (tableTree table).lookup (toBits w) = table w := by
  rw [tableTree, CodeTable.lookup_ofTable n _ _ (toBits_length w), ofNat_bitsToNat_toBits]

/-- The length and the run of an entry are in the ranges of R39. -/
theorem runtab_range {c : Cfg} {w : BitVec 12} {len run : Nat} (h : runtab c w = some (len, run)) :
    1 ≤ len ∧ len ≤ 12 ∧ run ≤ 63 := by
  obtain ⟨e, -, he⟩ := Option.map_eq_some_iff.mp h
  obtain ⟨rfl, rfl⟩ := Prod.mk.inj he
  have hl := e.lenPred.isLt
  have hr := e.run.isLt
  unfold RunEntry.len
  omega

/-- The length of an entry is in the range of R39. -/
theorem levtab_length_range {c : Cfg} {w : BitVec 15} {len : Nat} {v : LevelSymbol} (h : levtab c w = some (len, v)) :
    2 ≤ len ∧ len ≤ 15 := by
  obtain ⟨e, -, he⟩ := Option.map_eq_some_iff.mp h
  obtain ⟨rfl, -⟩ := Prod.mk.inj he
  have hl := e.lenPred.isLt
  unfold LevelEntry.len
  omega

/-- The level of an entry is in the range of R39. -/
theorem levtab_level_range {c : Cfg} {w : BitVec 15} {len : Nat} {v : Int} (h : levtab c w = some (len, .level v)) :
    v ≠ 0 ∧ -127 ≤ v ∧ v ≤ 127 := by
  obtain ⟨e, -, he⟩ := Option.map_eq_some_iff.mp h
  obtain ⟨-, hv⟩ := Prod.mk.inj he
  cases hval : e.value with
  | eob => rw [hval] at hv; cases hv
  | level negative m =>
    have hm := m.isLt
    rw [hval] at hv
    cases negative <;> simp [LevelValue.symbol] at hv <;> omega

end Sys2Proof

namespace Sys2Proof.Machine

open Sys2Proof

/-! ### The reference contents of `RUNTAB` -/

/-- The table of `RUNTAB` after 2 to 6 zeros and a one (R78). -/
theorem runTabRef_at_field {z : Nat} (h2 : 2 ≤ z) (h6 : z ≤ 6) (bits : Bits) :
    Config.runTabRef.lookup (List.replicate z false ++ true :: bits) = (runField z).lookup bits := by
  rw [Config.runTabRef, lookup_unaryTable_one]
  interval_cases z <;> rfl

/-- The `REF` code of 2 to 6 zeros at a window that begins with it (R78). -/
theorem runtab_ref_field {c : Cfg} (hc : c.runTab = Config.runTabRef) {w : BitVec 12} {z : Nat} (h2 : 2 ≤ z) (h6 : z ≤ 6)
    (hlo : 2 ^ (11 - z) ≤ w.toNat) (hhi : w.toNat < 2 ^ (12 - z)) :
    runtab c w = some (2 * z, 2 ^ (z - 1) + (w.toNat >>> (12 - 2 * z)) % 2 ^ (z - 1)) := by
  obtain ⟨r, hw, hbits⟩ := exists_bits_after_one (w := w) (z := z) (m := 11 - z) (by omega) hlo
    (by rwa [show 11 - z + 1 = 12 - z by omega])
  have hm : 11 - z = (12 - 2 * z) + (z - 1) := by omega
  have hx := bits_after_one hm hw r.isLt
  have hlt : (w.toNat >>> (12 - 2 * z)) % 2 ^ (z - 1) < 2 ^ (z - 1) := Nat.mod_lt _ (Nat.two_pow_pos _)
  have hpow : 2 ^ (z - 1) ≤ 2 ^ 5 := Nat.pow_le_pow_right (by omega) (by omega)
  have hlook : c.runTab.lookup (toBits w) = some
      { lenPred := Fin.ofNat 12 (2 * z - 1), run := Fin.ofNat 64 (2 ^ (z - 1) + r.toNat / 2 ^ (12 - 2 * z)) } := by
    rw [hc, hbits, runTabRef_at_field h2 h6]
    exact lookup_fieldTable_toBits _ r hm
  rw [runtab_of_lookup hlook, ← hx, RunEntry.len, Fin.val_ofNat, Fin.val_ofNat, Nat.mod_eq_of_lt (by omega),
    Nat.mod_eq_of_lt (by omega), show 2 * z - 1 + 1 = 2 * z by omega]

theorem runtab_ref_reserved {c : Cfg} (hc : c.runTab = Config.runTabRef) {w : BitVec 12} (h : w.toNat < 32) :
    runtab c w = none := by
  have hbits := toBits_of_lt (z := 7) (m := 5) (w := w) rfl h
  simp only [runtab, hc, hbits, Option.map_eq_none_iff]
  exact lookup_unaryTable_zeros _ _

/-- With the `REF` codes `RUNTAB` is `RunDecode` (R39, R124, R129). -/
theorem runtab_eq_runDecode {c : Cfg} (h : c.refCodes) (w : BitVec 12) : runtab c w = runDecode c w := by
  obtain ⟨hclz, hrun, -⟩ := h
  unfold runDecode
  simp only [hclz, clz8Ref_eq]
  rcases clz8_top_cases (k := 4) w rfl with ⟨hz, hlt⟩ | ⟨z, hz8, hz, hlo, hhi⟩
  · rw [hz, runtab_ref_reserved hrun (by omega)]; rfl
  · rw [hz]
    by_cases h7 : 7 ≤ z
    · have hlt : w.toNat < 2 ^ 5 := lt_of_lt_of_le hhi (Nat.pow_le_pow_right (by omega) (by omega))
      rw [if_pos h7, runtab_ref_reserved hrun hlt]
    · rw [if_neg h7]
      by_cases h2 : 2 ≤ z
      · rw [if_neg (by omega), if_neg (by omega)]
        exact runtab_ref_field hrun h2 (by omega) hlo hhi
      · obtain ⟨r, -, hbits⟩ := exists_bits_after_one (w := w) (z := z) (m := 11 - z) (by omega) hlo
          (by rwa [show 11 - z + 1 = 12 - z by omega])
        simp only [runtab, hrun, hbits, Config.runTabRef, lookup_unaryTable_one]
        interval_cases z <;> rfl

/-- `RunDecode` reserves the windows that begin with seven zeros (R129). -/
theorem runDecode_eq_none_iff {c : Cfg} (h : c.clz8 = Config.clz8Ref) (w : BitVec 12) :
    runDecode c w = none ↔ w.toNat < 32 := by
  unfold runDecode
  simp only [h, clz8Ref_eq]
  rcases clz8_top_cases (k := 4) w rfl with ⟨hz, hlt⟩ | ⟨z, hz8, hz, hlo, hhi⟩
  · rw [hz]
    exact iff_of_true rfl (by omega)
  · rw [hz]
    by_cases h7 : 7 ≤ z
    · have hlt : w.toNat < 2 ^ 5 := lt_of_lt_of_le hhi (Nat.pow_le_pow_right (by omega) (by omega))
      simpa [h7] using hlt
    · have hle : 2 ^ 5 ≤ w.toNat := le_trans (Nat.pow_le_pow_right (by omega) (by omega)) hlo
      rw [if_neg h7]
      split_ifs <;> simp <;> omega

/-! ### The reference contents of `LEVTAB` -/

/-- The table of `LEVTAB` after 2 to 7 zeros and a one (R79). -/
theorem levTabRef_at_field {z : Nat} (h2 : 2 ≤ z) (h7 : z ≤ 7) (bits : Bits) :
    Config.levTabRef.lookup (List.replicate z false ++ true :: bits) = (levelField z).lookup bits := by
  rw [Config.levTabRef, lookup_unaryTable_one]
  interval_cases z <;> rfl

/-- The symbol of a level entry, from its sign bit and its magnitude. -/
theorem symbol_levelOfField {s m : Nat} (h0 : 0 < m) (hm : m < 128) :
    (LevelValue.level (s == 1) (Fin.ofNat 127 (m - 1))).symbol = .level (if s = 1 then -(m : Int) else m) := by
  have hv : ((Fin.ofNat 127 (m - 1)).val : Int) + 1 = m := by
    rw [Fin.val_ofNat, Nat.mod_eq_of_lt (by omega)]; omega
  simp only [LevelValue.symbol, hv, beq_iff_eq]

/-- The `REF` code of 2 to 7 zeros at a window that begins with it (R79). -/
theorem levtab_ref_field {c : Cfg} (hc : c.levTab = Config.levTabRef) {w : BitVec 15} {z : Nat} (h2 : 2 ≤ z) (h7 : z ≤ 7)
    (hlo : 2 ^ (14 - z) ≤ w.toNat) (hhi : w.toNat < 2 ^ (15 - z)) :
    levtab c w = some (2 * z + 1, .level
      (if (w.toNat >>> (14 - 2 * z)) % 2 = 1
        then -(2 ^ (z - 1) + (((w.toNat >>> (15 - 2 * z)) % 2 ^ (z - 1) : Nat) : Int))
        else 2 ^ (z - 1) + (((w.toNat >>> (15 - 2 * z)) % 2 ^ (z - 1) : Nat) : Int))) := by
  obtain ⟨r, hw, hbits⟩ := exists_bits_after_one (w := w) (z := z) (m := 14 - z) (by omega) hlo
    (by rwa [show 14 - z + 1 = 15 - z by omega])
  have hm : 14 - z = (14 - 2 * z) + z := by omega
  have hm' : 14 - z = (15 - 2 * z) + (z - 1) := by omega
  have hx : (w.toNat >>> (15 - 2 * z)) % 2 ^ (z - 1) = r.toNat / 2 ^ (14 - 2 * z) / 2 := by
    rw [bits_after_one hm' hw r.isLt, Nat.div_div_eq_div_mul, ← Nat.pow_succ,
      show (14 - 2 * z).succ = 15 - 2 * z by omega]
  have hs : (w.toNat >>> (14 - 2 * z)) % 2 = r.toNat / 2 ^ (14 - 2 * z) % 2 := by
    rw [← bits_after_one hm hw r.isLt, Nat.mod_mod_of_dvd _ (dvd_pow_self 2 (by omega))]
  have hlt : (w.toNat >>> (15 - 2 * z)) % 2 ^ (z - 1) < 2 ^ (z - 1) := Nat.mod_lt _ (Nat.two_pow_pos _)
  have hpow : 2 ^ (z - 1) ≤ 2 ^ 6 := Nat.pow_le_pow_right (by omega) (by omega)
  have hpos : 0 < 2 ^ (z - 1) := Nat.two_pow_pos _
  have hlook : c.levTab.lookup (toBits w) = some
      { lenPred := Fin.ofNat 14 (2 * z - 1)
        value := .level (r.toNat / 2 ^ (14 - 2 * z) % 2 == 1)
          (Fin.ofNat 127 (2 ^ (z - 1) + r.toNat / 2 ^ (14 - 2 * z) / 2 - 1)) } := by
    rw [hc, hbits, levTabRef_at_field h2 h7]
    exact lookup_fieldTable_toBits _ r hm
  rw [levtab_of_lookup hlook, ← hx, ← hs, symbol_levelOfField (by omega) (by omega), LevelEntry.len, Fin.val_ofNat,
    Nat.mod_eq_of_lt (by omega), show 2 * z - 1 + 2 = 2 * z + 1 by omega]
  push_cast
  rfl

theorem levtab_ref_reserved {c : Cfg} (hc : c.levTab = Config.levTabRef) {w : BitVec 15} (h : w.toNat < 128) :
    levtab c w = none := by
  have hbits := toBits_of_lt (z := 8) (m := 7) (w := w) rfl h
  simp only [levtab, hc, hbits, Option.map_eq_none_iff]
  exact lookup_unaryTable_zeros _ _

/-- The `REF` codes of magnitude 1: `1s` (R79). -/
theorem levtab_ref_one {c : Cfg} (hc : c.levTab = Config.levTabRef) {w : BitVec 15} (h : 2 ^ 14 ≤ w.toNat) :
    levtab c w = some (2, .level (if (w.toNat >>> 13) % 2 = 1 then -1 else 1)) := by
  obtain ⟨r, hw, hbits⟩ := exists_bits_after_one (w := w) (z := 0) (m := 14) rfl h w.isLt
  have hr : r.toNat < 2 ^ 14 := r.isLt
  have hs : (w.toNat >>> 13) % 2 = r.toNat / 2 ^ 13 := bits_after_one (a := 13) (e := 1) rfl hw hr
  have htable : (CodeTable.branch (.entry { lenPred := 0, value := .level false 0 })
      (.entry { lenPred := 0, value := .level true 0 }) : CodeTable LevelEntry) =
        fieldTable (fun s => { lenPred := 0, value := .level (s == 1) 0 }) 1 0 := rfl
  have hlook : c.levTab.lookup (toBits w) = some { lenPred := 0, value := .level (r.toNat / 2 ^ 13 == 1) 0 } := by
    rw [hc, hbits, Config.levTabRef, lookup_unaryTable_one, htable]
    exact lookup_fieldTable_toBits _ r (a := 13) rfl
  rw [levtab_of_lookup hlook, ← hs]
  exact congrArg (fun v => some (2, v)) (symbol_levelOfField (m := 1) (by omega) (by omega))

/-- The `REF` code of the end of block: `01` (R79). -/
theorem levtab_ref_eob {c : Cfg} (hc : c.levTab = Config.levTabRef) {w : BitVec 15} (hlo : 2 ^ 13 ≤ w.toNat)
    (hhi : w.toNat < 2 ^ 14) : levtab c w = some (2, .eob) := by
  obtain ⟨r, -, hbits⟩ := exists_bits_after_one (w := w) (z := 1) (m := 13) rfl hlo hhi
  simp only [levtab, hc, hbits, Config.levTabRef, lookup_unaryTable_one]
  rfl

/-- With the `REF` codes `LEVTAB` is `LevelDecode` (R39, R125, R129). -/
theorem levtab_eq_levelDecode {c : Cfg} (h : c.refCodes) (w : BitVec 15) : levtab c w = levelDecode c w := by
  obtain ⟨hclz, -, hlev⟩ := h
  unfold levelDecode
  simp only [hclz, clz8Ref_eq]
  rcases clz8_top_cases (k := 7) w rfl with ⟨hz, hlt⟩ | ⟨z, hz8, hz, hlo, hhi⟩
  · rw [hz, levtab_ref_reserved hlev (by omega)]; rfl
  · rw [hz, if_neg (by omega)]
    rcases (by omega : z = 0 ∨ z = 1 ∨ 2 ≤ z) with rfl | rfl | h2
    · exact levtab_ref_one hlev hlo
    · exact levtab_ref_eob hlev hlo hhi
    · rw [if_neg (by omega), if_neg (by omega)]
      exact levtab_ref_field hlev h2 (by omega) hlo hhi

/-- `LevelDecode` reserves the windows that begin with eight zeros (R129). -/
theorem levelDecode_eq_none_iff {c : Cfg} (h : c.clz8 = Config.clz8Ref) (w : BitVec 15) :
    levelDecode c w = none ↔ w.toNat < 128 := by
  unfold levelDecode
  simp only [h, clz8Ref_eq]
  rcases clz8_top_cases (k := 7) w rfl with ⟨hz, hlt⟩ | ⟨z, hz8, hz, hlo, hhi⟩
  · simpa [hz] using hlt
  · have hle : 2 ^ 7 ≤ w.toNat := le_trans (Nat.pow_le_pow_right (by omega) (by omega)) hlo
    rw [hz, if_neg (by omega)]
    split_ifs <;> simp <;> omega

/-- `LevelDecode` gives the end of block its two bits (R126). -/
theorem length_of_levelDecode_eob {c : Cfg} {w : BitVec 15} {len : Nat} (h : levelDecode c w = some (len, .eob)) :
    len = 2 := by
  unfold levelDecode at h
  dsimp only at h
  split_ifs at h <;> simp_all

end Sys2Proof.Machine
end

section
/-! SUPPORT. The symbols of the AC loop as elements: which element stands for a run value or a level, what it does, and what
it does at a window of `RUNTAB` or `LEVTAB` (spec 30_encoding.md R78, R79; 41_entropy_decoder.md R124 to R130). -/

namespace Sys2Proof

/-- The extra bits of a number between two powers of two, added to the lower one again (R82). -/
theorem add_extraBits {k z m : Nat} (hk : k = 2 ^ z) (hlo : k ≤ m) (hhi : m < 2 * k) :
    k + (BitVec.ofNat z (m - k)).toNat = m := by
  rw [BitVec.toNat_ofNat, ← hk, Nat.mod_eq_of_lt (by omega)]
  omega

/-! ### The element of a run value -/

/-- Every run value of an entry has an element that stands for it (R78). -/
theorem runOf_asmRun {r : Nat} (h : r ≤ 63) : ∃ n, (asmRun r).runOf = some (n, r) := by
  have extra : ∀ {k z : Nat} (n : Nat), k = 2 ^ z → k ≤ r → r < 2 * k →
      some (n, k + (BitVec.ofNat z (r - k)).toNat) = some (n, r) := fun _ hk hlo hhi => by rw [add_extraBits hk hlo hhi]
  unfold asmRun
  split_ifs
  · exact ⟨1, by subst r; rfl⟩
  · exact ⟨2, by subst r; rfl⟩
  · exact ⟨4, extra 4 rfl (by omega) (by omega)⟩
  · exact ⟨6, extra 6 rfl (by omega) (by omega)⟩
  · exact ⟨8, extra 8 rfl (by omega) (by omega)⟩
  · exact ⟨10, extra 10 rfl (by omega) (by omega)⟩
  · exact ⟨12, extra 12 rfl (by omega) (by omega)⟩

/-- An element that stands for a run value is the element of that value, which is in the range of R39. -/
theorem asmRun_of_runOf {i : Instr} {n r : Nat} (h : i.runOf = some (n, r)) : r ≤ 63 ∧ asmRun r = i := by
  cases i with
  | run0 | run1 => cases h; exact ⟨by omega, rfl⟩
  | run2 x | run3 x | run4 x | run5 x | run6 x =>
    cases h
    have hx := x.isLt
    refine ⟨by omega, ?_⟩
    simp (disch := omega) only [asmRun, if_pos, if_neg, Nat.add_sub_cancel_left, BitVec.ofNat_toNat, BitVec.setWidth_eq]
  | _ => cases h

theorem slot_of_runOf {i : Instr} {n r : Nat} (h : i.runOf = some (n, r)) : i.slot = .run := by
  cases i with
  | run0 | run1 | run2 x | run3 x | run4 x | run5 x | run6 x => rfl
  | _ => cases h

theorem encode_of_runOf (c : Cfg) {i : Instr} {n r : Nat} (h : i.runOf = some (n, r)) :
    encode c i = (runCodeOf c.runTab r).getD [] := by
  cases i with
  | run0 | run1 | run2 x | run3 x | run4 x | run5 x | run6 x => cases h; rfl
  | _ => cases h

theorem wf_of_runOf (c : Cfg) {i : Instr} {n r : Nat} (h : i.runOf = some (n, r)) :
    i.wf c = (runCodeOf c.runTab r).isSome := by
  cases i with
  | run0 | run1 | run2 x | run3 x | run4 x | run5 x | run6 x => cases h; rfl
  | _ => cases h

/-! ### The element of a level -/

/-- The sign bit of a level, 1 = negative (R79). -/
def signBit (v : Int) : BitVec 1 := if v < 0 then 1 else 0

theorem withSign_signBit (v : Int) : withSign (signBit v) v.natAbs = v := by
  by_cases h : v < 0
  · rw [signBit, if_pos h, withSign, if_pos rfl]; omega
  · rw [signBit, if_neg h, withSign, if_neg (by decide)]; omega

theorem natAbs_withSign (sg : BitVec 1) (m : Nat) : (withSign sg m).natAbs = m := by
  unfold withSign
  split_ifs <;> simp

theorem signBit_withSign (sg : BitVec 1) {m : Nat} (h : 0 < m) : signBit (withSign sg m) = sg := by
  unfold withSign signBit
  split_ifs with h1 h2 h2
  · exact h1.symm
  · omega
  · omega
  · exact ((BitVec.eq_zero_or_eq_one sg).resolve_right h1).symm

/-- The level of a nonzero magnitude up to 127 is in the range of R39. -/
theorem withSign_range (sg : BitVec 1) {m : Nat} (h0 : 0 < m) (h : m < 128) :
    withSign sg m ≠ 0 ∧ -127 ≤ withSign sg m ∧ withSign sg m ≤ 127 := by
  unfold withSign
  split_ifs <;> omega

/-- Every level of an entry has an element that stands for it (R79). -/
theorem levelOf_asmLevel {v : Int} (h0 : v ≠ 0) (hlo : -127 ≤ v) (hhi : v ≤ 127) :
    ∃ n, (asmLevel v).levelOf = some (n, v) := by
  have extra : ∀ {k z : Nat} (n : Nat), k = 2 ^ z → k ≤ v.natAbs → v.natAbs < 2 * k →
      some (n, withSign (signBit v) (k + (BitVec.ofNat z (v.natAbs - k)).toNat)) = some (n, v) :=
    fun _ hk hlo hhi => by rw [add_extraBits hk hlo hhi, withSign_signBit]
  have one : v.natAbs < 2 → some (2, withSign (signBit v) 1) = some (2, v) := fun h => by
    rw [show 1 = v.natAbs by omega, withSign_signBit]
  have sign : (if v < 0 then (1 : BitVec 1) else 0) = signBit v := rfl
  simp only [asmLevel, sign]
  split_ifs with h2
  · exact ⟨2, one h2⟩
  · exact ⟨5, extra 5 rfl (by omega) (by omega)⟩
  · exact ⟨7, extra 7 rfl (by omega) (by omega)⟩
  · exact ⟨9, extra 9 rfl (by omega) (by omega)⟩
  · exact ⟨11, extra 11 rfl (by omega) (by omega)⟩
  · exact ⟨13, extra 13 rfl (by omega) (by omega)⟩
  · exact ⟨15, extra 15 rfl (by omega) (by omega)⟩

/-- An element that stands for a level is the element of that level, which is in the range of R39. -/
theorem asmLevel_of_levelOf {i : Instr} {n : Nat} {v : Int} (h : i.levelOf = some (n, v)) :
    (v ≠ 0 ∧ -127 ≤ v ∧ v ≤ 127) ∧ asmLevel v = i := by
  have sign : ∀ (sg : BitVec 1) {m : Nat}, 0 < m → (if withSign sg m < 0 then (1 : BitVec 1) else 0) = sg :=
    fun sg _ hm => signBit_withSign sg hm
  cases i with
  | level0 sg =>
    cases h
    refine ⟨withSign_range sg (by omega) (by omega), ?_⟩
    rw [asmLevel, sign sg (by omega), natAbs_withSign]
    rfl
  | level2 x sg | level3 x sg | level4 x sg | level5 x sg | level6 x sg | level7 x sg =>
    cases h
    have hx := x.isLt
    refine ⟨withSign_range sg (by omega) (by omega), ?_⟩
    simp (disch := omega) only [asmLevel, sign, natAbs_withSign, if_pos, if_neg, Nat.add_sub_cancel_left, BitVec.ofNat_toNat,
      BitVec.setWidth_eq]
  | _ => cases h

theorem slot_of_levelOf {i : Instr} {n : Nat} {v : Int} (h : i.levelOf = some (n, v)) : i.slot = .level := by
  cases i with
  | level0 sg | level2 x sg | level3 x sg | level4 x sg | level5 x sg | level6 x sg | level7 x sg => rfl
  | _ => cases h

theorem encode_of_levelOf (c : Cfg) {i : Instr} {n : Nat} {v : Int} (h : i.levelOf = some (n, v)) :
    encode c i = (levelCodeOf c.levTab (.level v)).getD [] := by
  cases i with
  | level0 sg | level2 x sg | level3 x sg | level4 x sg | level5 x sg | level6 x sg | level7 x sg => cases h; rfl
  | _ => cases h

theorem wf_of_levelOf (c : Cfg) {i : Instr} {n : Nat} {v : Int} (h : i.levelOf = some (n, v)) :
    i.wf c = (levelCodeOf c.levTab (.level v)).isSome := by
  cases i with
  | level0 sg | level2 x sg | level3 x sg | level4 x sg | level5 x sg | level6 x sg | level7 x sg => cases h; rfl
  | _ => cases h

/-! ### The element of a window -/

theorem decodeRun_of_reserved {c : Cfg} {w : BitVec 12} (h : runtab c w = none) : decodeRun c w = .runReserved := by
  simp [decodeRun, h]

theorem decodeRun_of_entry {c : Cfg} {w : BitVec 12} {len r : Nat} (h : runtab c w = some (len, r)) :
    decodeRun c w = asmRun r := by
  simp [decodeRun, h]

theorem decodeLevel_of_reserved {c : Cfg} {w : BitVec 15} (h : levtab c w = none) : decodeLevel c w = .levelReserved := by
  simp [decodeLevel, h]

theorem decodeLevel_of_eob {c : Cfg} {w : BitVec 15} {len : Nat} (h : levtab c w = some (len, .eob)) :
    decodeLevel c w = .eob := by
  simp [decodeLevel, h]

theorem decodeLevel_of_level {c : Cfg} {w : BitVec 15} {len : Nat} {v : Int} (h : levtab c w = some (len, .level v)) :
    decodeLevel c w = asmLevel v := by
  simp [decodeLevel, h]

end Sys2Proof

namespace Sys2Proof.Machine

open Sys2Proof

/-! ### What a symbol does -/

theorem exec_of_runOf {i : Instr} {n r : Nat} (h : i.runOf = some (n, r)) (s : State) : exec i s = runSymbol r s := by
  cases i with
  | run0 | run1 | run2 x | run3 x | run4 x | run5 x | run6 x => cases h; rfl
  | _ => cases h

theorem exec_of_levelOf {i : Instr} {n : Nat} {v : Int} (h : i.levelOf = some (n, v)) (s : State) :
    exec i s = levelSymbol (signBit v) v.natAbs s := by
  cases i with
  | level0 sg | level2 x sg | level3 x sg | level4 x sg | level5 x sg | level6 x sg | level7 x sg =>
    cases h
    rw [signBit_withSign sg (by omega), natAbs_withSign]
    rfl
  | _ => cases h

/-- Where `RUNTAB` holds the run value at the cursor, its code is consumed and the run added (R39, R124). -/
theorem runSymbol_of_entry {s : State} {len r : Nat} (h : runtab s.cfg (bcPeek 12 s) = some (len, r))
    (hl : s.pos + len ≤ s.limit) :
    runSymbol r s = .next { s with pos := s.pos + len, idx := s.idx + r, slot := .level } := by
  rw [runSymbol, runCodeLength_of_entry h, skipc_of_le hl]
  rfl

/-- Where `LEVTAB` holds the level at the cursor, its code is consumed and the coefficient placed (R39, R125, R127). -/
theorem levelSymbol_of_entry {s : State} {len : Nat} {v : Int} (h : levtab s.cfg (bcPeek 15 s) = some (len, .level v))
    (hi : s.idx < 64) (hl : s.pos + len ≤ s.limit) :
    levelSymbol (signBit v) v.natAbs s =
      .next { deqAc ⟨s.idx, hi⟩ v s with pos := s.pos + len, idx := s.idx + 1, slot := .run } := by
  rw [levelSymbol, withSign_signBit, levelCodeLength_of_entry h, skipc_of_le hl]
  exact dif_pos hi

theorem elementLength_eob (s : State) : s.elementLength .eob = levelCodeLength .eob s := rfl

end Sys2Proof.Machine

namespace Sys2Proof.Proofs

open Sys2Proof Sys2Proof.Machine

/-- Settles O6: any table is held by the tree over its windows; a window's entry decides element and effect; and under `REF`
the lookup is computed by the number of leading zeros of the window. -/
theorem runWindowsFollowRunDecode : Obligations.RunWindowsFollowRunDecode := by
  unfold Obligations.RunWindowsFollowRunDecode
  refine ⟨fun table => ⟨tableTree table, fun c w hc => ?_⟩, fun c w => ⟨?_, fun href => ?_⟩⟩
  · rw [runtab, hc, lookup_tableTree]
    rfl
  · split
    next h => exact decodeRun_of_reserved h
    next len run h =>
      obtain ⟨h1, h12, h63⟩ := runtab_range h
      refine ⟨h1, h12, h63, fun s hs hw hl => ?_⟩
      subst hs hw
      obtain ⟨n, hrun⟩ := runOf_asmRun h63
      rw [decodeRun_of_entry h, exec_of_runOf hrun, runSymbol_of_entry h hl]
  · exact ⟨runtab_eq_runDecode href w, runDecode_eq_none_iff href.1 w⟩

/-- Settles O7, as O6 for the second class. -/
theorem levelWindowsFollowLevelDecode : Obligations.LevelWindowsFollowLevelDecode := by
  unfold Obligations.LevelWindowsFollowLevelDecode
  refine ⟨fun table => ⟨tableTree table, fun c w hc => ?_⟩, fun c w => ⟨?_, fun href => ?_⟩⟩
  · rw [levtab, hc, lookup_tableTree]
    rfl
  · split
    next h => exact decodeLevel_of_reserved h
    next len h =>
      obtain ⟨h2, h15⟩ := levtab_length_range h
      refine ⟨h2, h15, decodeLevel_of_eob h, fun s hs hw => ?_⟩
      subst hs hw
      rw [elementLength_eob, levelCodeLength_of_entry h]
    next len v h =>
      obtain ⟨h2, h15⟩ := levtab_length_range h
      obtain ⟨h0, hlo, hhi⟩ := levtab_level_range h
      refine ⟨h2, h15, h0, hlo, hhi, fun s hi hs hw hl => ?_⟩
      subst hs hw
      obtain ⟨n, hlevel⟩ := levelOf_asmLevel h0 hlo hhi
      rw [decodeLevel_of_level h, exec_of_levelOf hlevel, levelSymbol_of_entry h hi hl]
  · exact ⟨levtab_eq_levelDecode href w, levelDecode_eq_none_iff href.1 w, fun _ => length_of_levelDecode_eob⟩

end Sys2Proof.Proofs
end

section
/-! SUPPORT. The decoder reads back what the encoder wrote, whatever follows it, and a step runs the element so read (spec
00_scope.md R2; 30_encoding.md R70 to R81). -/

namespace Sys2Proof

/-! ### Fields and runs at the head of a stream -/

theorem toBits_field (bits : Bits) (off n : Nat) : toBits (field bits off n) = bitRun bits off n := by
  refine toBits_eq_of (bitRun_length bits off n) ?_
  have hlt := bitsToNat_lt (bitRun bits off n)
  rw [bitRun_length] at hlt
  rw [field, BitVec.toNat_ofNat, Nat.mod_eq_of_lt hlt]

/-- The field read behind bits of a known number. -/
theorem field_after {off n : Nat} {a : Bits} (ha : a.length = off) (v : BitVec n) (c : Bits) :
    field (a ++ (toBits v ++ c)) off n = v :=
  ha ▸ field_append a c v

theorem field_head {n : Nat} (v : BitVec n) (c : Bits) : field (toBits v ++ c) 0 n = v := field_append [] c v

/-- The bits a window begins with are those the stream begins with. -/
theorem prefix_bitRun {bits : Bits} {n : Nat} (h : bits.length ≤ n) (rest : Bits) :
    bits <+: bitRun (bits ++ rest) 0 n := by
  have hrun : bitRun (bits ++ rest) 0 bits.length = bits := bitRun_append [] bits rest
  rw [List.prefix_iff_eq_take, bitRun, ← List.map_take, List.take_range, min_eq_left h]
  exact hrun.symm

theorem toBits_append {m n : Nat} (a : BitVec m) (b : BitVec n) : toBits (a ++ b) = toBits a ++ toBits b := by
  refine toBits_eq_of (by simp) ?_
  rw [bitsToNat_append, bitsToNat_toBits, bitsToNat_toBits, toBits_length, BitVec.toNat_append,
    ← Nat.shiftLeft_add_eq_or_of_lt b.isLt, Nat.shiftLeft_eq]

theorem toBits_ofBool (b : Bool) : toBits (BitVec.ofBool b) = [b] := by cases b <;> rfl

/-- The stream bits of a descriptor with bit 7 set (R77). -/
theorem toBits_descOf (ext : Bool) (flags : BitVec 6) :
    toBits (Machine.descOf ext flags) = true :: ext :: toBits flags := by
  rw [Machine.descOf, toBits_append, toBits_append, toBits_ofBool]
  rfl

/-- The stream bits of a descriptor with bit 7 clear (R77). -/
theorem toBits_descInvalid (low : BitVec 7) : toBits (Machine.descInvalid low) = false :: toBits low := by
  rw [Machine.descInvalid, toBits_append]
  rfl

theorem descOf_bits (ext : Bool) (flags : BitVec 6) :
    (Machine.descOf ext flags).getLsbD 7 = true ∧ (Machine.descOf ext flags).getLsbD 6 = ext ∧
    (Machine.descOf ext flags).extractLsb' 0 6 = flags := by
  revert ext flags
  decide

theorem descInvalid_bits (low : BitVec 7) :
    (Machine.descInvalid low).getLsbD 7 = false ∧ (Machine.descInvalid low).extractLsb' 0 7 = low := by
  revert low
  decide

/-! ### Codes and reserved patterns at the head of a stream -/

theorem runCode_length_le {t : CodeTable RunEntry} {r : Nat} {code : Bits} (h : runCodeOf t r = some code) :
    code.length ≤ 12 := by
  obtain ⟨-, e, -, -, hlen, -⟩ := CodeTable.codeOf_eq_some h
  have := e.lenPred.isLt
  rw [hlen, RunEntry.len]
  omega

theorem levelCode_length_le {t : CodeTable LevelEntry} {v : LevelSymbol} {code : Bits} (h : levelCodeOf t v = some code) :
    code.length ≤ 15 := by
  obtain ⟨-, e, -, -, hlen, -⟩ := CodeTable.codeOf_eq_some h
  have := e.lenPred.isLt
  rw [hlen, LevelEntry.len]
  omega

theorem CodeTable.reservedPattern_length_le {α : Type} {n : Nat} {t : CodeTable α} {pattern : Bits}
    (h : CodeTable.reservedPattern n t = some pattern) : pattern.length ≤ n := by
  induction t generalizing n pattern with
  | reserved => cases n <;> cases h <;> exact Nat.zero_le _
  | entry e => cases n <;> cases h
  | branch zero one hz ho =>
    cases n with
    | zero => cases h; exact Nat.le_refl _
    | succ n =>
      simp only [CodeTable.reservedPattern] at h
      split at h
      next bits hbits => cases h; exact Nat.succ_le_succ (hz hbits)
      next =>
        obtain ⟨bits, hbits, rfl⟩ := Option.map_eq_some_iff.mp h
        exact Nat.succ_le_succ (ho hbits)

/-- The code of a run value is read back with its length and value (R80, R84). -/
theorem runtab_of_code {c : Cfg} (hc : c.codesWf) {r : Nat} {code : Bits} (h : runCodeOf c.runTab r = some code)
    (rest : Bits) : runtab c (field (code ++ rest) 0 12) = some (code.length, r) := by
  have hpre : code <+: toBits (field (code ++ rest) 0 12) :=
    toBits_field _ 0 12 ▸ prefix_bitRun (runCode_length_le h) rest
  obtain ⟨e, he, hr, hlen⟩ := CodeTable.lookup_codeOf hc.1 h hpre
  rw [runtab_of_lookup he, hlen, beq_iff_eq.mp hr]

/-- The code of a second-class symbol is read back with its length and value (R80, R84). -/
theorem levtab_of_code {c : Cfg} (hc : c.codesWf) {v : LevelSymbol} {code : Bits} (h : levelCodeOf c.levTab v = some code)
    (rest : Bits) : levtab c (field (code ++ rest) 0 15) = some (code.length, v) := by
  have hpre : code <+: toBits (field (code ++ rest) 0 15) :=
    toBits_field _ 0 15 ▸ prefix_bitRun (levelCode_length_le h) rest
  obtain ⟨e, he, hv, hlen⟩ := CodeTable.lookup_codeOf hc.2 h hpre
  rw [levtab_of_lookup he, hlen, beq_iff_eq.mp hv]

/-- The reserved pattern of `RUNTAB` is read back as reserved (R81). -/
theorem runtab_of_reservedPattern {c : Cfg} {pattern : Bits} (h : runReservedOf c.runTab = some pattern) (rest : Bits) :
    runtab c (field (pattern ++ rest) 0 12) = none := by
  have hpre : pattern <+: toBits (field (pattern ++ rest) 0 12) :=
    toBits_field _ 0 12 ▸ prefix_bitRun (CodeTable.reservedPattern_length_le h) rest
  rw [runtab, CodeTable.lookup_reservedPattern h (toBits_length _) hpre, Option.map_none]

/-- The reserved pattern of `LEVTAB` is read back as reserved (R81). -/
theorem levtab_of_reservedPattern {c : Cfg} {pattern : Bits} (h : levelReservedOf c.levTab = some pattern) (rest : Bits) :
    levtab c (field (pattern ++ rest) 0 15) = none := by
  have hpre : pattern <+: toBits (field (pattern ++ rest) 0 15) :=
    toBits_field _ 0 15 ▸ prefix_bitRun (CodeTable.reservedPattern_length_le h) rest
  rw [levtab, CodeTable.lookup_reservedPattern h (toBits_length _) hpre, Option.map_none]

/-! ### Decoding an encoded element -/

theorem decode_encode_of_runOf {c : Cfg} (hc : c.codesWf) {i : Instr} {n r : Nat} (hi : i.runOf = some (n, r))
    (hw : i.wf c = true) (rest : Bits) : decode c i.slot (encode c i ++ rest) = i := by
  rw [wf_of_runOf c hi] at hw
  obtain ⟨code, hcode⟩ := Option.isSome_iff_exists.mp hw
  rw [slot_of_runOf hi, encode_of_runOf c hi, hcode, Option.getD_some, decode,
    decodeRun_of_entry (runtab_of_code hc hcode rest)]
  exact (asmRun_of_runOf hi).2

theorem decode_encode_of_levelOf {c : Cfg} (hc : c.codesWf) {i : Instr} {n : Nat} {v : Int} (hi : i.levelOf = some (n, v))
    (hw : i.wf c = true) (rest : Bits) : decode c i.slot (encode c i ++ rest) = i := by
  rw [wf_of_levelOf c hi] at hw
  obtain ⟨code, hcode⟩ := Option.isSome_iff_exists.mp hw
  rw [slot_of_levelOf hi, encode_of_levelOf c hi, hcode, Option.getD_some, decode,
    decodeLevel_of_level (levtab_of_code hc hcode rest)]
  exact (asmLevel_of_levelOf hi).2

/-- A slice marker is told by its own 22 bits (R73, R74, R81). -/
theorem decodeSliceHdr_marker (c : Cfg) (m : Marker) (rest : Bits) :
    decodeSliceHdr c (toBits m ++ rest) =
      if m = c.eos then .eosMark
      else if isSliceStart c m then .gobHdr m (bitRun (toBits m ++ rest) 22 c.gobExtraBits) else .badMark m := by
  by_cases h : m = c.eos <;> simp [decodeSliceHdr, field_head, isSliceStart, h]

/-- A macroblock header with coded flag 0 is told by its descriptor (R77). -/
theorem decodeMbHdr_descriptor (desc : BitVec 8) (rest : Bits) :
    decodeMbHdr (false :: (toBits desc ++ rest)) =
      if desc.getLsbD 7 then
        if desc.getLsbD 6 then .mbHdrR (desc.extractLsb' 0 6) (field (false :: (toBits desc ++ rest)) 9 2)
        else .mbHdr (desc.extractLsb' 0 6)
      else .mbHdrInvalid (desc.extractLsb' 0 7) := by
  have hdesc : field (false :: (toBits desc ++ rest)) 1 8 = desc := field_after (a := [false]) rfl desc rest
  simp only [decodeMbHdr, hdesc]
  rfl

/-- What the encoder writes the decoder reads back, whatever bits follow; padding is as long as its bits (R70 to R81). -/
theorem decode_encode {c : Cfg} (hc : c.codesWf) {i : Instr} (hw : i.wf c = true) {rest : Bits}
    (hpad : i.slot = .alignPad → rest = []) : decode c i.slot (encode c i ++ rest) = i := by
  cases i with
  | alignPad pad => rw [hpad rfl, List.append_nil]; rfl
  | picHdr psc fmt scale d =>
    have hd : d.length = c.hdrDiscardBits := beq_iff_eq.mp hw
    have hfmt := field_after (toBits_length psc) fmt (toBits scale ++ (d ++ rest))
    have hscale := field_after (a := toBits psc ++ toBits fmt) (off := 24) (by simp) scale (d ++ rest)
    have hdis := bitRun_append (toBits psc ++ (toBits fmt ++ toBits scale)) d rest
    simp only [List.length_append, toBits_length, Nat.reduceAdd, List.append_assoc, hd] at hdis hscale
    simp only [Instr.slot, decode, encode, List.append_assoc, field_head, hfmt, hscale, hdis]
  | gobHdr m d =>
    simp only [Instr.wf, Bool.and_eq_true, beq_iff_eq] at hw
    obtain ⟨hm, hd⟩ := hw
    have heos : m ≠ c.eos := by
      rintro rfl
      simp [isSliceStart] at hm
    have hdis := bitRun_append (toBits m) d rest
    rw [toBits_length, hd] at hdis
    simp only [Instr.slot, decode, encode, List.append_assoc, decodeSliceHdr_marker, if_neg heos, if_pos hm, hdis]
  | eosMark => simp only [Instr.slot, decode, encode, decodeSliceHdr_marker, if_true]
  | badMark m =>
    simp only [Instr.wf, Bool.and_eq_true, bne_iff_ne, Bool.not_eq_true'] at hw
    obtain ⟨heos, hm⟩ := hw
    simp [Instr.slot, decode, encode, decodeSliceHdr_marker, heos, hm]
  | trailer m => simp only [Instr.slot, decode, encode, field_head]
  | mbHdrC => rfl
  | mbHdr flags =>
    obtain ⟨h7, h6, hflags⟩ := descOf_bits false flags
    have := decodeMbHdr_descriptor (Machine.descOf false flags) rest
    rw [h7, h6, hflags, toBits_descOf] at this
    exact this
  | mbHdrR flags rsv =>
    obtain ⟨h7, h6, hflags⟩ := descOf_bits true flags
    have hrsv := field_after (a := false :: toBits (Machine.descOf true flags)) (off := 9) (by simp) rsv rest
    have := decodeMbHdr_descriptor (Machine.descOf true flags) (toBits rsv ++ rest)
    rw [h7, h6, hflags, ← List.cons_append, hrsv, toBits_descOf] at this
    simpa [Instr.slot, decode, encode] using this
  | mbHdrInvalid low =>
    obtain ⟨h7, hlow⟩ := descInvalid_bits low
    have := decodeMbHdr_descriptor (Machine.descInvalid low) rest
    rw [h7, hlow, toBits_descInvalid] at this
    exact this
  | dc v => simp only [Instr.slot, decode, encode, field_head]
  | run0 | run1 | run2 x | run3 x | run4 x | run5 x | run6 x => exact decode_encode_of_runOf hc rfl hw rest
  | runReserved =>
    obtain ⟨pattern, hpattern⟩ := Option.isSome_iff_exists.mp hw
    rw [encode, hpattern]
    exact decodeRun_of_reserved (runtab_of_reservedPattern hpattern rest)
  | level0 sg | level2 x sg | level3 x sg | level4 x sg | level5 x sg | level6 x sg | level7 x sg =>
    exact decode_encode_of_levelOf hc rfl hw rest
  | eob =>
    obtain ⟨code, hcode⟩ := Option.isSome_iff_exists.mp hw
    rw [encode, hcode]
    exact decodeLevel_of_eob (levtab_of_code hc hcode rest)
  | levelReserved =>
    obtain ⟨pattern, hpattern⟩ := Option.isSome_iff_exists.mp hw
    rw [encode, hpattern]
    exact decodeLevel_of_reserved (levtab_of_reservedPattern hpattern rest)

/-- An element other than padding fits in the window of its position (R71, R83). -/
theorem bitLength_le_windowLength {c : Cfg} {i : Instr} (hw : i.wf c = true) (hpad : i.slot ≠ .alignPad) (pos : Nat) :
    bitLength c i ≤ windowLength c pos i.slot := by
  have run : ∀ r, ((runCodeOf c.runTab r).getD []).length ≤ 12 := fun r => by
    cases h : runCodeOf c.runTab r with
    | none => exact Nat.zero_le _
    | some code => exact runCode_length_le h
  have level : ∀ v, ((levelCodeOf c.levTab v).getD []).length ≤ 15 := fun v => by
    cases h : levelCodeOf c.levTab v with
    | none => exact Nat.zero_le _
    | some code => exact levelCode_length_le h
  have reserved : ∀ {α : Type} (n : Nat) (t : CodeTable α), ((CodeTable.reservedPattern n t).getD []).length ≤ n :=
    fun n t => by
      cases h : CodeTable.reservedPattern n t with
      | none => exact Nat.zero_le _
      | some pattern => exact CodeTable.reservedPattern_length_le h
  cases i with
  | alignPad pad => exact absurd rfl hpad
  | picHdr psc fmt scale d =>
    simp only [Instr.wf, beq_iff_eq] at hw
    simp [bitLength, encode, Instr.slot, windowLength, hw]
    omega
  | gobHdr m d =>
    simp only [Instr.wf, Bool.and_eq_true, beq_iff_eq] at hw
    simp [bitLength, encode, Instr.slot, windowLength, hw]
  | eosMark | trailer m | badMark m | mbHdrC | mbHdr flags | mbHdrR flags rsv | mbHdrInvalid low | dc v =>
    simp [bitLength, encode, Instr.slot, windowLength]
  | run0 | run1 | run2 x | run3 x | run4 x | run5 x | run6 x => exact run _
  | level0 sg | level2 x sg | level3 x sg | level4 x sg | level5 x sg | level6 x sg | level7 x sg | eob => exact level _
  | runReserved => exact reserved 12 c.runTab
  | levelReserved => exact reserved 15 c.levTab

end Sys2Proof

namespace Sys2Proof.Machine

open Sys2Proof

/-! ### The window at the cursor -/

@[simp] theorem window_length (s : State) (n : Nat) : (s.window n).length = n := by simp [State.window]

/-- The first bits of a longer peek are those of a shorter one (R102). -/
theorem window_take (s : State) (k n : Nat) : (s.window n).take k = s.window (min k n) := by
  rw [State.window, ← List.map_take, List.take_range, State.window]

/-- What the stream begins with at the cursor does not depend on how far it is looked at. -/
theorem prefix_window {s : State} {bits : Bits} {n m : Nat} (h : bits <+: s.window n) (hm : bits.length ≤ m) :
    bits <+: s.window m := by
  have hn : bits.length ≤ n := window_length s n ▸ h.length_le
  rw [List.prefix_iff_eq_take, window_take, min_eq_left hn] at h
  rwa [List.prefix_iff_eq_take, window_take, min_eq_left hm]

/-- The element at the cursor is the one whose encoding stands there (R70). -/
theorem fetch_of_encoded {s : State} {i : Instr} {n : Nat} (hc : s.cfg.codesWf) (hw : i.wf s.cfg = true)
    (hslot : s.slot = i.slot) (hpad : i.slot = .alignPad → bitLength s.cfg i = padLength s.pos)
    (henc : encode s.cfg i <+: s.window n) : fetch s = i := by
  have hlen : bitLength s.cfg i ≤ windowLength s.cfg s.pos i.slot := by
    by_cases h : i.slot = .alignPad
    · rw [hpad h, h]; exact Nat.le_refl _
    · exact bitLength_le_windowLength hw h s.pos
  obtain ⟨rest, hrest⟩ := prefix_window henc hlen
  have hnil : i.slot = .alignPad → rest = [] := fun h => by
    have := congrArg List.length hrest
    rw [List.length_append, window_length, ← bitLength, hpad h, h, windowLength] at this
    exact List.length_eq_zero_iff.mp (by omega)
  rw [fetch, fetchWindow, hslot, ← hrest]
  exact decode_encode hc hw hnil

end Sys2Proof.Machine

namespace Sys2Proof.Proofs

open Sys2Proof Sys2Proof.Machine

/-- Settles O15: the decoder reads back the element that is encoded at the cursor, and the step runs what it reads. -/
theorem stepRunsTheEncodedElement : Obligations.StepRunsTheEncodedElement :=
  fun _ _ _ hc hrun hw hslot hpad henc => by rw [step_of_running hrun, fetch_of_encoded hc hw hslot hpad henc]

end Sys2Proof.Proofs
end

section
/-! SUPPORT. What an element may change, said once for every element (spec 10_state.md R22 to R34): the families of elements,
a rule for each operation that the meanings are made of, and the frame. -/

namespace Sys2Proof

/-! ### The families of elements -/

/-- The elements by family: the run codes are one family and the level codes are one, told by the value an element stands
for (R78, R79). -/
theorem Instr.family_cases {motive : Instr → Prop} (alignPad : ∀ pad, motive (.alignPad pad))
    (picHdr : ∀ psc fmt scale d, motive (.picHdr psc fmt scale d)) (gobHdr : ∀ m d, motive (.gobHdr m d))
    (eosMark : motive .eosMark) (trailer : ∀ m, motive (.trailer m)) (badMark : ∀ m, motive (.badMark m))
    (mbHdrC : motive .mbHdrC) (mbHdr : ∀ flags, motive (.mbHdr flags)) (mbHdrR : ∀ flags rsv, motive (.mbHdrR flags rsv))
    (mbHdrInvalid : ∀ low, motive (.mbHdrInvalid low)) (dc : ∀ v, motive (.dc v))
    (run : ∀ i n r, i.runOf = some (n, r) → motive i) (runReserved : motive .runReserved)
    (level : ∀ i n v, i.levelOf = some (n, v) → motive i) (eob : motive .eob) (levelReserved : motive .levelReserved)
    (i : Instr) : motive i := by
  cases i with
  | alignPad pad => exact alignPad pad
  | picHdr psc fmt scale d => exact picHdr psc fmt scale d
  | gobHdr m d => exact gobHdr m d
  | eosMark => exact eosMark
  | trailer m => exact trailer m
  | badMark m => exact badMark m
  | mbHdrC => exact mbHdrC
  | mbHdr flags => exact mbHdr flags
  | mbHdrR flags rsv => exact mbHdrR flags rsv
  | mbHdrInvalid low => exact mbHdrInvalid low
  | dc v => exact dc v
  | run0 | run1 | run2 | run3 | run4 | run5 | run6 => exact run _ _ _ rfl
  | runReserved => exact runReserved
  | level0 | level2 | level3 | level4 | level5 | level6 | level7 => exact level _ _ _ rfl
  | eob => exact eob
  | levelReserved => exact levelReserved

/-! ### The grammar position of a decoded element -/

theorem decodeSliceHdr_slot (c : Cfg) (bits : Bits) : (decodeSliceHdr c bits).slot = .sliceHdr := by
  simp only [decodeSliceHdr]
  split_ifs <;> rfl

theorem decodeMbHdr_slot (bits : Bits) : (decodeMbHdr bits).slot = .mbHdr := by
  simp only [decodeMbHdr]
  split_ifs <;> rfl

theorem decodeRun_slot (c : Cfg) (w : BitVec 12) : (decodeRun c w).slot = .run := by
  rcases h : runtab c w with _ | ⟨len, r⟩
  · rw [decodeRun_of_reserved h]
    rfl
  · obtain ⟨-, -, h63⟩ := runtab_range h
    obtain ⟨n, hrun⟩ := runOf_asmRun h63
    rw [decodeRun_of_entry h, slot_of_runOf hrun]

theorem decodeLevel_slot (c : Cfg) (w : BitVec 15) : (decodeLevel c w).slot = .level := by
  rcases h : levtab c w with _ | ⟨len, v | _⟩
  · rw [decodeLevel_of_reserved h]
    rfl
  · obtain ⟨h0, hlo, hhi⟩ := levtab_level_range h
    obtain ⟨n, hlevel⟩ := levelOf_asmLevel h0 hlo hhi
    rw [decodeLevel_of_level h, slot_of_levelOf hlevel]
  · rw [decodeLevel_of_eob h]
    rfl

/-- The decoder answers an element of the grammar position it reads at (R70). -/
theorem decode_slot (c : Cfg) (p : Slot) (bits : Bits) : (decode c p bits).slot = p := by
  cases p with
  | alignPad | picHdr | trailer | dc => rfl
  | sliceHdr => exact decodeSliceHdr_slot c bits
  | mbHdr => exact decodeMbHdr_slot bits
  | run => exact decodeRun_slot c _
  | level => exact decodeLevel_slot c _

end Sys2Proof

namespace Sys2Proof.Machine

open Sys2Proof

@[simp] theorem fetch_slot (s : State) : (fetch s).slot = s.slot := decode_slot s.cfg s.slot _

/-! ### The grammar positions of a running call -/

/-- After `ReadHeader` no picture header is read (R26, R70). -/
theorem State.Inv.slot_ne_picHdr {s : State} (h : s.Inv) (hrun : s.running = true) (hseq : s.seq ≠ .readHeader) :
    s.slot ≠ .picHdr := by
  obtain ⟨-, hdone, hfailed⟩ := (running_iff s).mp hrun
  obtain ⟨-, -, hphase, -⟩ := h
  intro hslot
  unfold State.PhaseInv at hphase
  cases hs : s.seq
  case readHeader => exact hseq hs
  case decodeSlices =>
    simp only [hs, State.SliceSlotInv, hslot] at hphase
    obtain ⟨-, -, -, -, -, hfalse⟩ := hphase
    exact hfalse
  case readTrailer => simp [hs, hslot] at hphase
  case done => exact hdone hs
  case failed => exact hfailed hs

/-- The AC loop is inside `DecodeSlices`, with the scan index past the DC coefficient (R123, R128). -/
theorem State.Inv.ac_loop {s : State} (h : s.Inv) (hrun : s.running = true) (hslot : s.slot = .run ∨ s.slot = .level) :
    1 ≤ s.idx := by
  obtain ⟨-, hdone, hfailed⟩ := (running_iff s).mp hrun
  obtain ⟨-, -, hphase, -⟩ := h
  unfold State.PhaseInv at hphase
  cases hs : s.seq
  case readHeader => rcases hslot with e | e <;> simp [hs, e] at hphase
  case decodeSlices =>
    rw [hs] at hphase
    obtain ⟨-, -, -, -, -, hslice⟩ := hphase
    unfold State.SliceSlotInv at hslice
    rcases hslot with e | e
    · rw [e] at hslice
      obtain ⟨-, -, hidx, -⟩ := hslice
      exact hidx
    · rw [e] at hslice
      obtain ⟨-, -, hidx, -⟩ := hslice
      exact hidx
  case readTrailer => rcases hslot with e | e <;> simp [hs, e] at hphase
  case done => exact absurd hs hdone
  case failed => exact absurd hs hfailed

/-! ### What holds of every next state -/

/-- Every next state that a meaning answers has the property. -/
def Yields (P : State → Prop) (o : Out) : Prop := ∀ t, o = .next t → P t

theorem yields_next {P : State → Prop} {t : State} (h : P t) : Yields P (.next t) := by
  rintro _ ⟨⟩
  exact h

/-- A field read with the truncation test: the truncation error, or the rest of the element (R111). -/
theorem yields_skipc {P : State → Prop} {n : Nat} {k : Err} {s : State} {rest : State → Out}
    (hfail : P (raise k (bcSkip n s))) (hrest : Yields P (rest (bcSkip n s))) : Yields P (skipc n k s rest) := by
  rcases skipc_cases n k s rest with ⟨-, e⟩ | ⟨-, e⟩
  · exact e ▸ yields_next hfail
  · exact e ▸ hrest

/-- The end of a block: the next block, or the store of the macroblock and what follows it (R184). -/
theorem yields_endBlock {P : State → Prop} {s : State}
    (hnext : ∀ h : s.blockIdx.val < 5,
      P { idct s.blockIdx s with blockIdx := ⟨s.blockIdx.val + 1, by omega⟩, slot := .dc })
    (hlast : ∀ m : Memory, P (nextMacroblock { idct s.blockIdx s with raster := some m })) : Yields P (endBlock s) := by
  by_cases h : s.blockIdx.val < 5
  · exact endBlock_of_lt h ▸ yields_next (hnext h)
  · rw [endBlock_of_last h]
    rcases endMacroblock_cases (idct s.blockIdx s) with ⟨-, e⟩ | ⟨t, ht, e⟩
    · rw [e]
      rintro _ ⟨⟩
    · obtain ⟨m, -, -, rfl⟩ := storeMacroblock_eq_some ht
      exact e ▸ yields_next (hlast _)

/-! ### The frame of an element -/

/-- What element `i` leaves unchanged on the way from `s` to `t` (R22, R23, R28, R30 to R35, R43, R160, R230); outside the
blocks it does not enter the AC loop either (R70). -/
structure Frame (i : Instr) (s t : State) : Prop where
  pos : s.pos ≤ t.pos
  input : t.buf = s.buf ∧ t.len = s.len ∧ t.cfg = s.cfg ∧ t.started = s.started
  header : i.slot ≠ .picHdr →
    t.fmt = s.fmt ∧ t.scale = s.scale ∧ t.width = s.width ∧ t.height = s.height ∧ t.slices = s.slices ∧ t.mbw = s.mbw
  desc : i.slot ≠ .mbHdr → t.desc = s.desc
  coef : i.slot ≠ .dc → i.slot ≠ .level → t.coef = s.coef
  idx : i.slot ≠ .dc → i.slot ≠ .run → i.slot ≠ .level → t.idx = s.idx
  transform : i.slot ≠ .dc → i ≠ .eob → t.ws = s.ws ∧ t.spat = s.spat
  otherBlocks : ∀ b : Fin 6, b ≠ s.blockIdx → t.spat[b] = s.spat[b]
  earlyEos : i ≠ .eosMark → t.earlyEos = s.earlyEos
  clock : i ≠ .eosMark → i.slot ≠ .trailer → t.decodeSeconds = s.decodeSeconds ∧ t.clockDraws = s.clockDraws
  error : t.seq ≠ .failed → i.slot ≠ .trailer → t.err = s.err ∧ t.failPos = s.failPos
  acLoop : i.slot ≠ .dc → i.slot ≠ .run → i.slot ≠ .level → t.slot = .run ∨ t.slot = .level → t.slot = s.slot

/-- After the padding comes a grammar position outside the blocks, or the call has ended (R70). -/
theorem afterAlign_cases (s : State) :
    (∃ p : Slot, (p ≠ .run ∧ p ≠ .level) ∧ afterAlign s = { s with slot := p }) ∨ afterAlign s = s := by
  unfold afterAlign
  split
  · exact .inl ⟨.picHdr, by decide, rfl⟩
  · exact .inl ⟨.sliceHdr, by decide, rfl⟩
  · exact .inl ⟨.trailer, by decide, rfl⟩
  · exact .inr rfl
  · exact .inr rfl

/-- The transform writes the samples of its block (R160). -/
theorem idct_spat_same (b : Fin 6) (s : State) : (idct b s).spat[b] = pass2 s.cfg (pass1 s.cfg s.coef) := by simp

/-- Two blocks: the transform of one leaves the other (R160). -/
theorem idct_spat_other {b b' : Fin 6} (h : b' ≠ b) (s : State) : (idct b s).spat[b'] = s.spat[b'] := by
  have : b.val ≠ b'.val := fun e => h (Fin.ext e.symm)
  simp [this]

namespace Frame

variable {i : Instr} {s u : State}

theorem refl (i : Instr) (s : State) : Frame i s s := by constructor <;> simp

theorem bcSkip (hu : Frame i s u) (n : Nat) : Frame i s (bcSkip n u) :=
  { hu with pos := hu.pos.trans (Nat.le_add_right u.pos n) }

/-- A failure records the error and changes nothing else (R250). -/
theorem raise (hu : Frame i s u) (k : Err) : Frame i s (raise k u) :=
  { hu with error := fun h => absurd rfl h }

/-- A field read with the truncation test: the rest of the element is left (R111). -/
theorem skipc (hu : Frame i s u) {n : Nat} {k : Err} {rest : State → Out}
    (hrest : Frame i s (Machine.bcSkip n u) → Yields (Frame i s) (rest (Machine.bcSkip n u))) :
    Yields (Frame i s) (skipc n k u rest) :=
  yields_skipc ((hu.bcSkip n).raise k) (hrest (hu.bcSkip n))

/-- A failing element: what it has changed so far is all it changes. -/
theorem fails (hu : Frame i s u) (k : Err) : Yields (Frame i s) (.next (Machine.raise k u)) := yields_next (hu.raise k)

/-- An element moves on to a grammar position outside the AC loop. -/
theorem leaveAc (hu : Frame i s u) {p : Slot} (hp : p ≠ .run ∧ p ≠ .level) : Frame i s { u with slot := p } :=
  { hu with acLoop := fun _ _ _ h => absurd h (not_or.mpr hp) }

theorem nextMacroblock (hu : Frame i s u) (he : u.err = s.err ∧ u.failPos = s.failPos) : Frame i s (nextMacroblock u) := by
  have hmb := hu.leaveAc (p := .mbHdr) (by decide)
  have hpad := hu.leaveAc (p := .alignPad) (by decide)
  rcases nextMacroblock_cases u with ⟨-, e⟩ | ⟨-, -, e⟩ | ⟨-, -, e⟩
  · exact e ▸ { hmb with }
  · exact e ▸ { hpad with }
  · exact e ▸ { hpad with error := fun _ _ => he }

/-- The element that ends a block changes what it had changed before, the transform's registers and the raster (R184). -/
theorem endBlock (hu : Frame i s u) (hi : i.slot = .dc ∨ i = .eob) (hb : u.blockIdx = s.blockIdx)
    (he : u.err = s.err ∧ u.failPos = s.failPos) : Yields (Frame i s) (endBlock u) := by
  have hidct : Frame i s (idct u.blockIdx u) :=
    { hu with
      transform := fun hslot heob => absurd hi (not_or.mpr ⟨hslot, heob⟩)
      otherBlocks := fun b h => (idct_spat_other (hb ▸ h) u).trans (hu.otherBlocks b h) }
  exact yields_endBlock (fun _ => { hidct.leaveAc (p := .dc) (by decide) with }) fun _ => nextMacroblock { hidct with } he

/-- The header registers belong to PICHDR (R28). -/
theorem setHeader (hu : Frame i s u) (hi : i.slot = .picHdr) (fmt : BitVec 2) (scale : BitVec 3) (w h : Nat) :
    Frame i s { u with fmt := fmt, scale := scale, width := w, height := h } :=
  { hu with header := fun h => absurd hi h }

theorem enterSlices (hu : Frame i s u) (hi : i.slot = .picHdr) (he : u.err = s.err ∧ u.failPos = s.failPos) :
    Frame i s (enterSlices u) :=
  { hu.leaveAc (p := .mbHdr) (by decide) with header := fun h => absurd hi h, error := fun _ _ => he }

/-- The descriptor belongs to the macroblock headers (R30). -/
theorem acceptDesc (hu : Frame i s u) (hi : i.slot = .mbHdr) (d : BitVec 8) : Frame i s (acceptDesc d u) :=
  { hu with desc := fun h => absurd hi h }

/-- The clock and the end of the stream belong to the elements that end a call in `Done` (R219, R222, R226). -/
theorem finish (hu : Frame i s u) (hi : i = .eosMark ∨ i.slot = .trailer)
    (he : i.slot ≠ .trailer → u.err = s.err ∧ u.failPos = s.failPos) : Frame i s (finish u) :=
  { hu with clock := fun h h' => absurd hi (not_or.mpr ⟨h, h'⟩), error := fun _ => he }

/-- PICHDR (R212 to R216). -/
theorem picHdr (psc : Marker) (fmt : BitVec 2) (scale : BitVec 3) (d : Bits) (s : State) :
    Yields (Frame (.picHdr psc fmt scale d) s) (execPicHdr psc fmt scale d s) := by
  refine (refl _ s).skipc fun hpsc => ?_
  split
  · exact hpsc.fails _
  refine hpsc.skipc fun h2 => ?_
  have hfmt := h2.setHeader rfl fmt s.scale s.width s.height
  split
  · exact hfmt.fails _
  refine hfmt.skipc fun h3 => ?_
  have hscale := h3.setHeader rfl fmt scale s.width s.height
  split
  · exact hscale.fails _
  refine (h3.setHeader rfl fmt scale (widthOf s.cfg fmt scale) (heightOf s.cfg fmt scale)).skipc fun hd => ?_
  split
  · exact hd.fails _
  · exact yields_next (hd.enterSlices rfl ⟨rfl, rfl⟩)

/-- ALIGNPAD (R105): the cursor moves, and the sequencer state gives the next grammar position. -/
theorem alignPad (pad : Bits) (s : State) : Yields (Frame (.alignPad pad) s) (execAlignPad pad s) := by
  have h := (refl (.alignPad pad) s).bcSkip (padLength s.pos)
  refine yields_next ?_
  rcases afterAlign_cases (bcAlign s) with ⟨p, hp, e⟩ | e
  · rw [e]
    exact h.leaveAc hp
  · rw [e]
    exact h

theorem gobHdr (m : Marker) (d : Bits) (s : State) : Yields (Frame (.gobHdr m d) s) (execGobHdr m d s) := by
  refine (refl _ s).skipc fun h => ?_
  exact h.skipc fun h' => yields_next { h'.leaveAc (p := .mbHdr) (by decide) with error := fun _ _ => ⟨rfl, rfl⟩ }

theorem eosMark (s : State) : Yields (Frame .eosMark s) (execEosMark s) := by
  refine (refl _ s).skipc fun h => ?_
  have heos : Frame .eosMark s { Machine.bcSkip 22 s with earlyEos := true } :=
    { h with earlyEos := fun h' => absurd rfl h' }
  exact yields_next (heos.finish (.inl rfl) fun _ => ⟨rfl, rfl⟩)

theorem trailer (m : Marker) (s : State) : Yields (Frame (.trailer m) s) (execTrailer m s) := by
  refine (refl _ s).skipc fun h => yields_next (finish ?_ (.inr rfl) fun h' => absurd rfl h')
  split
  · exact { h with error := fun _ h' => absurd rfl h' }
  · exact h

theorem badMark (m : Marker) (s : State) : Yields (Frame (.badMark m) s) (execBadMark m s) :=
  (refl _ s).skipc fun h => h.fails _

theorem mbHdrC (s : State) : Yields (Frame .mbHdrC s) (execMbHdrC s) := (refl _ s).skipc fun h => h.fails _

theorem enterBlocks (hu : Frame i s u) : Frame i s (enterBlocks u) := { hu.leaveAc (p := .dc) (by decide) with }

theorem mbHdr (flags : BitVec 6) (s : State) : Yields (Frame (.mbHdr flags) s) (execMbHdr flags s) := by
  refine (refl _ s).skipc fun h1 => ?_
  exact h1.skipc fun h8 => yields_next (h8.acceptDesc rfl _).enterBlocks

theorem mbHdrR (flags : BitVec 6) (rsv : BitVec 2) (s : State) :
    Yields (Frame (.mbHdrR flags rsv) s) (execMbHdrR flags rsv s) := by
  refine (refl _ s).skipc fun h1 => ?_
  refine h1.skipc fun h8 => ?_
  exact (h8.acceptDesc rfl _).skipc fun h2 => yields_next h2.enterBlocks

theorem mbHdrInvalid (low : BitVec 7) (s : State) : Yields (Frame (.mbHdrInvalid low) s) (execMbHdrInvalid low s) := by
  refine (refl _ s).skipc fun h1 => ?_
  exact h1.skipc fun h8 => (h8.acceptDesc rfl _).fails _

/-- DC (R121 to R123). -/
theorem dc (v : BitVec 10) (s : State) : Yields (Frame (.dc v) s) (execDc v s) := by
  have hclear : Frame (.dc v) s (clearCoef s) := { refl _ s with coef := fun h => absurd rfl h }
  refine hclear.skipc fun h => ?_
  have hdeq : Frame (.dc v) s (deqDc v (Machine.bcSkip 10 (clearCoef s))) := { h with coef := fun h => absurd rfl h }
  dsimp only
  split
  · exact yields_next { hdeq with idx := fun h => absurd rfl h, acLoop := fun h => absurd rfl h }
  · exact hdeq.endBlock (.inl rfl) rfl ⟨rfl, rfl⟩

theorem runSymbol (hi : i.slot = .run) (r : Nat) (s : State) : Yields (Frame i s) (runSymbol r s) :=
  (refl i s).skipc fun h => yields_next { h with idx := fun _ h' => absurd hi h', acLoop := fun _ h' => absurd hi h' }

theorem levelSymbol (hi : i.slot = .level) (sg : BitVec 1) (m : Nat) (s : State) :
    Yields (Frame i s) (levelSymbol sg m s) := by
  refine (refl i s).skipc fun h => ?_
  split
  · exact yields_next
      { h with
        coef := fun _ h' => absurd hi h'
        idx := fun _ _ h' => absurd hi h'
        acLoop := fun _ _ h' => absurd hi h' }
  · exact h.fails _

end Frame

/-- Every element changes only what its frame says. -/
theorem exec_frame (i : Instr) (s : State) : Yields (Frame i s) (exec i s) := by
  have start := Frame.refl i s
  cases i using Instr.family_cases with
  | alignPad pad => exact Frame.alignPad pad s
  | picHdr psc fmt scale d => exact Frame.picHdr psc fmt scale d s
  | gobHdr m d => exact Frame.gobHdr m d s
  | eosMark => exact Frame.eosMark s
  | trailer m => exact Frame.trailer m s
  | badMark m => exact Frame.badMark m s
  | mbHdrC => exact Frame.mbHdrC s
  | mbHdr flags => exact Frame.mbHdr flags s
  | mbHdrR flags rsv => exact Frame.mbHdrR flags rsv s
  | mbHdrInvalid low => exact Frame.mbHdrInvalid low s
  | dc v => exact Frame.dc v s
  | run i n r h => exact exec_of_runOf h s ▸ Frame.runSymbol (slot_of_runOf h) r s
  | level i n v h => exact exec_of_levelOf h s ▸ Frame.levelSymbol (slot_of_levelOf h) _ _ s
  | eob => exact start.skipc fun h => h.endBlock (.inr rfl) rfl ⟨rfl, rfl⟩
  | runReserved | levelReserved => exact start.fails _

end Sys2Proof.Machine

namespace Sys2Proof.Proofs

open Sys2Proof Sys2Proof.Machine

/-- Settles O16, from the frame of every element. -/
theorem noElementMovesBackOrWritesInput : Obligations.NoElementMovesBackOrWritesInput := fun i s t h =>
  have f := exec_frame i s t h
  ⟨f.pos, f.input⟩

/-- Settles O28: the frame of every element, clause by clause. -/
theorem eachElementChangesOnlyItsOwnRegisters : Obligations.EachElementChangesOnlyItsOwnRegisters := fun i s t h =>
  have f := exec_frame i s t h
  ⟨f.header, f.desc, f.coef, f.idx, f.transform, f.otherBlocks, f.earlyEos, f.clock, f.error⟩

/-- Settles O24: a call that has left `ReadHeader` does not come back to the grammar position of PICHDR, and no other element
writes a header register. -/
theorem headerRegistersAreReadOnlyAfterReadHeader : Obligations.HeaderRegistersAreReadOnlyAfterReadHeader := by
  intro s t hinv hseq hstep
  by_cases hrun : s.running = true
  · rw [step_of_running hrun] at hstep
    refine (exec_frame _ s t hstep).header ?_
    rw [fetch_slot]
    exact hinv.slot_ne_picHdr hrun hseq
  · rw [step_of_not_running (by simpa using hrun)] at hstep
    cases hstep
    exact ⟨rfl, rfl, rfl, rfl, rfl, rfl⟩

end Sys2Proof.Proofs
end

section
/-! SUPPORT. The invariants at the start of a call, and the datapath invariant at every step: the range of the coefficient
buffer and the zeros of the scan positions not yet reached (spec 10_state.md R31, R44; 41_entropy_decoder.md R124, R127;
42_dequantizer.md R154). -/

namespace Sys2Proof.Machine

open Sys2Proof

/-! ### The start of a call -/

@[simp] theorem getElem_zeroBlock (i : Nat) (h : i < 64) : zeroBlock[i] = 0 := by simp [zeroBlock]

/-- The cleared coefficient buffer is in range (R121, R154). -/
theorem coefRange_of_zeroBlock {s : State} (h : s.coef = zeroBlock) : s.CoefRange := by
  simp only [State.CoefRange, h, Fin.getElem_fin, getElem_zeroBlock]
  refine ⟨⟨le_refl _, ?_⟩, fun p _ => ⟨?_, ?_⟩⟩ <;> omega

/-- Outside the AC loop no scan position has to be 0. -/
theorem unscannedZero_of_slot {s : State} {p : Slot} (h : s.slot = p) (hp : p ≠ .run ∧ p ≠ .level) : s.UnscannedZero :=
  fun hac => absurd (h ▸ hac) (not_or.mpr hp)

/-- A state in which every register but the input is at its reset value, whether `START` has been given or not. -/
theorem inv_of_reset_registers (c : Cfg) (draws : Nat) (bytes : List Byte) (started : Bool) :
    { atStart c draws bytes with started := started }.Inv := by
  refine ⟨⟨Memory.ofBytes_wf 0 0 bytes, fun x hx => ?_⟩, fun m hm => ?_, ?_, fun _ => ⟨rfl, rfl⟩⟩
  · obtain ⟨-, hlt, -⟩ := Memory.ofBytes_addresses x hx
    rwa [Nat.zero_add] at hlt
  · cases hm
  · exact ⟨rfl, .inl rfl, rfl, rfl, rfl, rfl⟩

theorem inv_atStart (c : Cfg) (draws : Nat) (bytes : List Byte) : (atStart c draws bytes).Inv :=
  inv_of_reset_registers c draws bytes true

/-- Before the first `START` the registers are those of the start of a call on no bytes (log 27). -/
theorem inv_resetOf (c : Cfg) : (State.resetOf c).Inv := inv_of_reset_registers c 0 [] false

theorem dataInv_resetOf {c : Cfg} (hc : c.wf) : (State.resetOf c).DataInv :=
  ⟨hc, coefRange_of_zeroBlock rfl, unscannedZero_of_slot (p := .alignPad) rfl (by decide)⟩

theorem dataInv_atStart {c : Cfg} (hc : c.wf) (draws : Nat) (bytes : List Byte) : (atStart c draws bytes).DataInv :=
  dataInv_resetOf hc

/-! ### What the dequantizer leaves -/

/-- `ZIGZAG` takes no raster position twice (R36). -/
theorem zigzag_injective {c : Cfg} (hc : c.wf) {i j : Fin 64} (h : c.zigzag[i] = c.zigzag[j]) : i = j := by
  obtain ⟨hnodup, -⟩ := hc
  have := (List.Nodup.getElem_inj_iff hnodup (i := i.val) (hi := by simp) (j := j.val) (hj := by simp)).mp (by simpa using h)
  exact Fin.ext this

/-- Only scan position 0 is the DC coefficient (R36). -/
theorem zigzag_ne_zero {c : Cfg} (hc : c.wf) {i : Fin 64} (hi : 1 ≤ i.val) : c.zigzag[i] ≠ 0 := by
  intro h
  have h0 : c.zigzag[(0 : Fin 64)] = 0 := hc.2.1
  have := zigzag_injective hc (h.trans h0.symm)
  omega

/-- What `DEQ.DC` leaves in the cleared buffer (R151). -/
theorem getElem_deqDc {v : BitVec 10} {s : State} (h : s.coef = zeroBlock) (p : Fin 64) :
    (deqDc v s).coef[p] = if p = 0 then (v.toNat : Int) * (s.cfg.iquant[0] : Int) else 0 := by
  show (s.coef.set 0 _)[p.val] = _
  rw [Vector.getElem_set, h, getElem_zeroBlock]
  simp only [Fin.ext_iff, Fin.val_zero, eq_comm]

/-- What `DEQ.AC` leaves (R152). -/
theorem getElem_deqAc (i : Fin 64) (v : Int) (s : State) (p : Fin 64) :
    (deqAc i v s).coef[p] = if p = s.cfg.zigzag[i] then v * (s.cfg.iquant[p] : Int) else s.coef[p] := by
  show (s.coef.set (s.cfg.zigzag[i]).val _ (s.cfg.zigzag[i]).isLt)[p.val] = _
  rw [Vector.getElem_set]
  by_cases h : p = s.cfg.zigzag[i]
  · subst h; simp
  · rw [if_neg h, if_neg fun e => h (Fin.ext e.symm)]
    rfl

/-- A product with a multiplier is within the bounds that its factor has (R154). -/
theorem mul_iquant_bounds {v lo hi : Int} (q : Nat) (hlo : lo ≤ v) (hhi : v ≤ hi) :
    lo * (q : Int) ≤ v * (q : Int) ∧ v * (q : Int) ≤ hi * (q : Int) :=
  ⟨mul_le_mul_of_nonneg_right hlo (Int.natCast_nonneg q), mul_le_mul_of_nonneg_right hhi (Int.natCast_nonneg q)⟩

theorem coefRange_deqDc {v : BitVec 10} {s : State} (h : s.coef = zeroBlock) : (deqDc v s).CoefRange := by
  have hv := v.isLt
  refine ⟨?_, fun p hp => ?_⟩
  · show 0 ≤ (deqDc v s).coef[(0 : Fin 64)] ∧ (deqDc v s).coef[(0 : Fin 64)] ≤ _
    rw [getElem_deqDc h, if_pos rfl]
    simpa using mul_iquant_bounds (lo := 0) s.cfg.iquant[0] (Int.natCast_nonneg v.toNat) (by omega)
  · rw [getElem_deqDc h, if_neg hp]
    constructor <;> omega

theorem coefRange_deqAc {i : Fin 64} {v : Int} {s : State} (hc : s.cfg.wf) (hr : s.CoefRange) (hi : 1 ≤ i.val)
    (hlo : -127 ≤ v) (hhi : v ≤ 127) : (deqAc i v s).CoefRange := by
  obtain ⟨hdc, hac⟩ := hr
  refine ⟨?_, fun p hp => ?_⟩
  · show 0 ≤ (deqAc i v s).coef[(0 : Fin 64)] ∧ (deqAc i v s).coef[(0 : Fin 64)] ≤ _
    rw [getElem_deqAc, if_neg (zigzag_ne_zero hc hi).symm]
    exact hdc
  · rw [getElem_deqAc]
    split_ifs
    · rw [← Int.neg_mul]
      exact mul_iquant_bounds _ hlo hhi
    · exact hac p hp

/-! ### Every element keeps the datapath invariant -/

/-- The invariant goes over to a state with the same coefficients, whose scan index, if it is in the AC loop, is not lower
than in the AC loop it comes from. -/
theorem State.DataInv.of_coef_eq {s t : State} (h : s.DataInv) (hcfg : t.cfg = s.cfg) (hcoef : t.coef = s.coef)
    (hidx : t.slot = .run ∨ t.slot = .level → (s.slot = .run ∨ s.slot = .level) ∧ s.idx ≤ t.idx) : t.DataInv := by
  obtain ⟨hwf, hrange, hzero⟩ := h
  refine ⟨hcfg ▸ hwf, ?_, fun hslot j hj => ?_⟩
  · simpa only [State.CoefRange, hcfg, hcoef] using hrange
  · obtain ⟨hac, hle⟩ := hidx hslot
    simpa only [hcfg, hcoef] using hzero hac j (hle.trans hj)

/-- After a macroblock comes a macroblock header or the padding before a marker (R217, R221). -/
theorem nextMacroblock_slot (s : State) : (nextMacroblock s).slot = .mbHdr ∨ (nextMacroblock s).slot = .alignPad := by
  rcases nextMacroblock_cases s with ⟨-, e⟩ | ⟨-, -, e⟩ | ⟨-, -, e⟩
  · exact .inl (congrArg State.slot e)
  · exact .inr (congrArg State.slot e)
  · exact .inr (congrArg State.slot e)

/-- A block ends outside the AC loop, with its coefficients (R184). -/
theorem yields_dataInv_endBlock {s : State} (hc : s.cfg.wf) (hr : s.CoefRange) : Yields State.DataInv (endBlock s) := by
  refine yields_endBlock (fun _ => ⟨hc, hr, unscannedZero_of_slot (p := .dc) rfl (by decide)⟩) fun m => ⟨?_, ?_, ?_⟩
  · rwa [nextMacroblock_cfg]
  · simpa only [State.CoefRange, nextMacroblock_cfg, nextMacroblock_coef, idct_cfg, idct_coef] using hr
  · rcases nextMacroblock_slot { idct s.blockIdx s with raster := some m } with h | h
    · exact unscannedZero_of_slot h (by decide)
    · exact unscannedZero_of_slot h (by decide)

/-- DC clears the block, writes the DC coefficient and opens the AC loop at scan index 1 (R121 to R123). -/
theorem yields_dataInv_dc {s : State} (hc : s.cfg.wf) (hslot : s.slot = .dc) (v : BitVec 10) :
    Yields State.DataInv (execDc v s) := by
  refine yields_skipc ⟨hc, coefRange_of_zeroBlock rfl, unscannedZero_of_slot (p := .dc) hslot (by decide)⟩ ?_
  have hr : (deqDc v (bcSkip 10 (clearCoef s))).CoefRange := coefRange_deqDc rfl
  dsimp only
  split
  · refine yields_next ⟨hc, hr, fun _ j hj => ?_⟩
    have hj0 : s.cfg.zigzag[j] ≠ 0 := zigzag_ne_zero hc hj
    show (deqDc v (bcSkip 10 (clearCoef s))).coef[s.cfg.zigzag[j]] = 0
    rw [getElem_deqDc rfl, if_neg hj0]
  · exact yields_dataInv_endBlock hc hr

/-- A run moves the scan index on (R124). -/
theorem yields_dataInv_runSymbol {s : State} (h : s.DataInv) (hslot : s.slot = .run) (r : Nat) :
    Yields State.DataInv (runSymbol r s) :=
  yields_skipc (h.of_coef_eq rfl rfl fun _ => ⟨.inl hslot, le_refl _⟩)
    (yields_next (h.of_coef_eq rfl rfl fun _ => ⟨.inl hslot, Nat.le_add_right _ _⟩))

/-- A level is placed at the scan index and the scan index moves past it (R127). -/
theorem yields_dataInv_levelSymbol {s : State} (h : s.DataInv) (hslot : s.slot = .level) (hidx : 1 ≤ s.idx) {v : Int}
    (hlo : -127 ≤ v) (hhi : v ≤ 127) : Yields State.DataInv (levelSymbol (signBit v) v.natAbs s) := by
  have fails : ∀ n k, (raise k (bcSkip n s)).DataInv := fun n k => h.of_coef_eq rfl rfl fun _ => ⟨.inr hslot, le_refl _⟩
  refine yields_skipc (fails _ _) ?_
  split
  next hlt =>
    rw [withSign_signBit]
    obtain ⟨hwf, hrange, hzero⟩ := h
    refine yields_next ⟨hwf, coefRange_deqAc (s := bcSkip _ s) hwf hrange hidx hlo hhi, fun _ j hj => ?_⟩
    have hj : s.idx + 1 ≤ j.val := hj
    show (deqAc ⟨s.idx, hlt⟩ v (bcSkip _ s)).coef[s.cfg.zigzag[j]] = 0
    rw [getElem_deqAc, if_neg fun e => ?_]
    · exact hzero (.inr hslot) j (by omega)
    · have := congrArg Fin.val (zigzag_injective hwf e)
      simp only at this
      omega
  next => exact yields_next (fails _ _)

/-- Every element keeps the datapath invariant at its grammar position. -/
theorem exec_dataInv {i : Instr} {s : State} (h : s.DataInv) (hslot : i.slot = s.slot)
    (hidx : s.slot = .run ∨ s.slot = .level → 1 ≤ s.idx) : Yields State.DataInv (exec i s) := by
  have ⟨hwf, hrange, _⟩ := h
  have outside : i.slot ≠ .dc → i.slot ≠ .run → i.slot ≠ .level → Yields State.DataInv (exec i s) := by
    intro hdc hrun hlevel t ht
    have f := exec_frame i s t ht
    obtain ⟨-, -, hcfg, -⟩ := f.input
    refine h.of_coef_eq hcfg (f.coef hdc hlevel) fun hac => ?_
    rw [f.acLoop hdc hrun hlevel hac, ← hslot] at hac
    exact absurd hac (not_or.mpr ⟨hrun, hlevel⟩)
  have fails : i.slot = .run ∨ i.slot = .level → ∀ n k, (raise k (bcSkip n s)).DataInv := fun hi n k =>
    h.of_coef_eq rfl rfl fun _ => ⟨hslot ▸ hi, le_refl _⟩
  cases i using Instr.family_cases with
  | dc v => exact yields_dataInv_dc hwf hslot.symm v
  | run i n r hi =>
    rw [exec_of_runOf hi]
    exact yields_dataInv_runSymbol h (hslot.symm.trans (slot_of_runOf hi)) r
  | level i n v hi =>
    obtain ⟨⟨-, hlo, hhi⟩, -⟩ := asmLevel_of_levelOf hi
    have hlevel := hslot.symm.trans (slot_of_levelOf hi)
    rw [exec_of_levelOf hi]
    exact yields_dataInv_levelSymbol h hlevel (hidx (.inr hlevel)) hlo hhi
  | runReserved => exact yields_next (fails (.inl rfl) 0 _)
  | levelReserved => exact yields_next (fails (.inr rfl) 0 _)
  | eob => exact yields_skipc (fails (.inr rfl) _ _) (yields_dataInv_endBlock hwf hrange)
  | _ => exact outside nofun nofun nofun

end Sys2Proof.Machine

namespace Sys2Proof.Proofs

open Sys2Proof Sys2Proof.Machine

/-- Settles O19: the buffer of a call holds the canonical form of its bytes, and every other register has its reset value. -/
theorem resetAndStartSatisfyTheInvariants : Obligations.ResetAndStartSatisfyTheInvariants :=
  ⟨inv_resetOf _, dataInv_resetOf ref_wf, fun c draws bytes =>
    ⟨inv_resetOf c, dataInv_resetOf, inv_atStart c draws bytes, fun hc => dataInv_atStart hc draws bytes⟩⟩

/-- Settles O20: the element at the cursor is one of the grammar position, and each keeps the invariant there. -/
theorem stepKeepsCoefficientsInRange : Obligations.StepKeepsCoefficientsInRange := by
  intro s t hinv hdata hstep
  by_cases hrun : s.running = true
  · rw [step_of_running hrun] at hstep
    exact exec_dataInv hdata (fetch_slot s) (hinv.ac_loop hrun) t hstep
  · rw [step_of_not_running (by simpa using hrun)] at hstep
    cases hstep
    exact hdata

end Sys2Proof.Proofs
end

section
/-! SUPPORT. What the raster holds after a macroblock is stored: each sample's pixel at its own address (spec
44_macroblock_csc.md R185 to R191; 10_state.md R40, R41). -/

namespace Sys2Proof.Machine

open Sys2Proof

/-! ### The address of a sample -/

/-- The first raster byte of the pixel of luma sample `i` (R190). -/
def sampleAddress (s : State) (i : Fin 256) : Nat := pixelAddress s.width (pixelX s i) (pixelY s i)

/-- Pixels of different columns or rows have addresses of their own (R58). -/
theorem pixelAddress_inj {w x y x' y' : Nat} (hx : x < w) (hx' : x' < w) (h : y * w + x = y' * w + x') :
    x = x' ∧ y = y' := by
  have hxx : x = x' := by
    have := congrArg (· % w) h
    simpa [Nat.mul_add_mod_self_right, Nat.mod_eq_of_lt hx, Nat.mod_eq_of_lt hx'] using this
  subst hxx
  exact ⟨rfl, Nat.eq_of_mul_eq_mul_right (by omega) (Nat.add_right_cancel h)⟩

/-- The bytes of two samples do not overlap, where `MBMAP` takes no value twice and the footprint is inside the raster
(R190). -/
theorem sampleAddress_disjoint {s : State} (hmap : s.cfg.mbmap.toList.Nodup) (hf : footprintInside s = true)
    {i j : Fin 256} (hij : j ≠ i) :
    sampleAddress s i + 2 < sampleAddress s j ∨ sampleAddress s j + 2 < sampleAddress s i := by
  simp only [footprintInside, Bool.and_eq_true, decide_eq_true_eq] at hf
  have hxi := pixelX_lt s i
  have hxj := pixelX_lt s j
  have hne : pixelY s i * s.width + pixelX s i ≠ pixelY s j * s.width + pixelX s j := fun h => by
    obtain ⟨hx, hy⟩ := pixelAddress_inj (by omega) (by omega) h
    unfold pixelX at hx
    unfold pixelY at hy
    have hp : (s.cfg.mbmap[i]).val = (s.cfg.mbmap[j]).val := by omega
    have := (hmap.getElem_inj_iff (i := i.val) (hi := by simp) (j := j.val) (hj := by simp)).mp
      (by simpa [Fin.ext_iff] using hp)
    exact hij (Fin.ext this.symm)
  unfold sampleAddress pixelAddress
  omega

/-! ### Reading the raster after the store -/

/-- Outside the pixels of the samples stored nothing changes (R57). -/
theorem read_storeSamples_other (s : State) (l : List (Fin 256)) {m : Memory} (hm : Memory.wf s.cfg.rasterFill m) {a : Nat}
    (ha : ∀ j ∈ l, a < sampleAddress s j ∨ sampleAddress s j + 2 < a) :
    Memory.read s.cfg.rasterFill (l.foldl (storeSample s) m) a = Memory.read s.cfg.rasterFill m a := by
  induction l generalizing m with
  | nil => rfl
  | cons j l ih =>
    have hj : a < pixelAddress s.width (pixelX s j) (pixelY s j) ∨ pixelAddress s.width (pixelX s j) (pixelY s j) + 2 < a :=
      ha j List.mem_cons_self
    have hm' : Memory.wf s.cfg.rasterFill (storeSample s m j) := storePixel_wf _ _ _ _ hm
    rw [List.foldl_cons, ih hm' fun j' h => ha j' (List.mem_cons_of_mem _ h), storeSample,
      read_storePixel _ _ _ _ hm, if_neg (by omega), if_neg (by omega), if_neg (by omega)]

/-- The three bytes of a pixel at an address. -/
def Memory.HoldsPixel (d : Byte) (m : Memory) (a : Nat) (rgb : Byte × Byte × Byte) : Prop :=
  Memory.read d m a = rgb.1 ∧ Memory.read d m (a + 1) = rgb.2.1 ∧ Memory.read d m (a + 2) = rgb.2.2

theorem storeSample_holdsPixel (s : State) (i : Fin 256) {m : Memory} (hm : Memory.wf s.cfg.rasterFill m) :
    Memory.HoldsPixel s.cfg.rasterFill (storeSample s m i) (sampleAddress s i) (pixelOf s i) := by
  simp [Memory.HoldsPixel, storeSample, sampleAddress, read_storePixel _ _ _ _ hm]

/-- A sample that is stored is where it belongs, whatever other samples are stored after it (R190). -/
theorem storeSamples_holdsPixel {s : State} {i : Fin 256} (l : List (Fin 256)) {m : Memory}
    (hm : Memory.wf s.cfg.rasterFill m) (hi : i ∈ l)
    (hdisjoint : ∀ j, j ≠ i → sampleAddress s i + 2 < sampleAddress s j ∨ sampleAddress s j + 2 < sampleAddress s i) :
    Memory.HoldsPixel s.cfg.rasterFill (l.foldl (storeSample s) m) (sampleAddress s i) (pixelOf s i) := by
  induction l generalizing m with
  | nil => cases hi
  | cons j l ih =>
    have hm' : Memory.wf s.cfg.rasterFill (storeSample s m j) := storePixel_wf _ _ _ _ hm
    by_cases hil : i ∈ l
    · exact ih hm' hil
    · obtain rfl : i = j := (List.mem_cons.mp hi).resolve_right hil
      have later : ∀ j ∈ l, sampleAddress s i + 2 < sampleAddress s j ∨ sampleAddress s j + 2 < sampleAddress s i :=
        fun j hj => hdisjoint j fun e => hil (e ▸ hj)
      have keeps : ∀ k ≤ 2, Memory.read s.cfg.rasterFill (l.foldl (storeSample s) (storeSample s m i))
          (sampleAddress s i + k) = Memory.read s.cfg.rasterFill (storeSample s m i) (sampleAddress s i + k) :=
        fun k hk => read_storeSamples_other s l hm' fun j hj => by have := later j hj; omega
      obtain ⟨h0, h1, h2⟩ := storeSample_holdsPixel s i hm
      exact ⟨(keeps 0 (by omega)).trans h0, (keeps 1 (by omega)).trans h1, (keeps 2 (by omega)).trans h2⟩

/-- A macroblock that is stored holds the pixel of each luma sample at its address (R190). -/
theorem storeMacroblock_rasterByte {s t : State} (hmap : s.cfg.mbmap.toList.Nodup) (hr : s.RasterInv)
    (h : storeMacroblock s = some t) (i : Fin 256) :
    t.rasterByte (sampleAddress s i) = some (pixelOf s i).1 ∧
    t.rasterByte (sampleAddress s i + 1) = some (pixelOf s i).2.1 ∧
    t.rasterByte (sampleAddress s i + 2) = some (pixelOf s i).2.2 := by
  obtain ⟨m, hm, hf, rfl⟩ := storeMacroblock_eq_some h
  have hin : sampleAddress s i + 2 < s.rasterSize := by
    have hx := pixelX_lt s i
    have hy := pixelY_lt s i
    simp only [footprintInside, Bool.and_eq_true, decide_eq_true_eq] at hf
    exact pixelAddress_lt (by omega) (by omega)
  obtain ⟨h0, h1, h2⟩ := storeSamples_holdsPixel (List.finRange 256) (hr m hm).1 (List.mem_finRange i)
    fun j hj => sampleAddress_disjoint hmap hf hj
  have byte : ∀ {a : Nat} {b : Byte}, a < s.rasterSize →
      Memory.read s.cfg.rasterFill ((List.finRange 256).foldl (storeSample s) m) a = b →
      State.rasterByte { s with raster := some ((List.finRange 256).foldl (storeSample s) m) } a = some b :=
    fun ha hb => (if_pos ha).trans (congrArg some hb)
  exact ⟨byte (by omega) h0, byte (by omega) h1, byte hin h2⟩

/-! ### The sample of a place -/

/-- The luma sample at local row `y`, column `x`: its block is the quadrant, its place in the block the rest (R40). -/
def sampleAt (y x : Fin 16) : Fin 256 := ⟨64 * (2 * (y.val / 8) + x.val / 8) + 8 * (y.val % 8) + x.val % 8, by omega⟩

/-- `MBMAP` takes the sample of a place to the place (R40), and `CHROMAMAP` to the place at half its coordinates (R41). -/
theorem mapRef_sampleAt (y x : Fin 16) :
    (Config.mbmapRef[sampleAt y x]).val = 16 * y.val + x.val ∧
    (Config.chromamapRef[sampleAt y x]).val = 8 * (y.val / 2) + x.val / 2 := by
  have hpos : (Config.mbmapRef[sampleAt y x]).val = 16 * y.val + x.val := by
    obtain ⟨b, hb, r, hr, c, hc, hi, hmb, -⟩ := mapRef_entry (sampleAt y x)
    simp only [sampleAt] at hi
    have hblock : b = 2 * (y.val / 8) + x.val / 8 := by omega
    have hrow : r = y.val % 8 := by omega
    have hcol : c = x.val % 8 := by omega
    rw [hmb]
    omega
  refine ⟨hpos, ?_⟩
  rw [chromamapRef_is_half, hpos]
  omega

theorem pixelOf_sampleAt {s : State} (hchroma : s.cfg.chromamap = Config.chromamapRef) (y x : Fin 16) :
    pixelOf s (sampleAt y x) = csc s.cfg
      ((s.spat[2 * (y.val / 8) + x.val / 8]'(by omega))[8 * (y.val % 8) + x.val % 8]'(by omega))
      ((s.spat[4])[8 * (y.val / 2) + x.val / 2]'(by omega))
      ((s.spat[5])[8 * (y.val / 2) + x.val / 2]'(by omega)) := by
  have hblock : (sampleAt y x).val / 64 = 2 * (y.val / 8) + x.val / 8 := by simp only [sampleAt]; omega
  have hplace : (sampleAt y x).val % 64 = 8 * (y.val % 8) + x.val % 8 := by simp only [sampleAt]; omega
  have hhalf := (mapRef_sampleAt y x).2
  rw [Fin.getElem_fin] at hhalf
  simp only [pixelOf, lumaSample, hchroma, hblock, hplace, Fin.getElem_fin, hhalf]

theorem sampleAddress_sampleAt {s : State} (hmap : s.cfg.mbmap = Config.mbmapRef) (y x : Fin 16) :
    sampleAddress s (sampleAt y x) = pixelAddress s.width (16 * s.mbIdx + x.val) (16 * s.sliceIdx + y.val) := by
  have hp := (mapRef_sampleAt y x).1
  have hcol : (16 * y.val + x.val) % 16 = x.val := by omega
  have hrow : (16 * y.val + x.val) / 16 = y.val := by omega
  rw [sampleAddress, pixelX, pixelY, hmap, hp, hcol, hrow]

end Sys2Proof.Machine

namespace Sys2Proof.Proofs

open Sys2Proof Sys2Proof.Machine

/-- Settles O47: the pixel of a place is that of the sample there, and the store leaves every sample's pixel at its address. -/
theorem pixelIsTheConvertedSampleOfItsPlace : Obligations.PixelIsTheConvertedSampleOfItsPlace := by
  intro s t y x hmap hchroma hr hstore
  have h := storeMacroblock_rasterByte (hmap ▸ mbmapRef_nodup) hr hstore (sampleAt y x)
  rwa [pixelOf_sampleAt hchroma, sampleAddress_sampleAt hmap] at h

end Sys2Proof.Proofs
end

section
/-! SUPPORT. Two runs side by side: a relation between states goes over from one step to runs of any length; the relation of
states that differ in the host's clock only (spec 10_state.md R21; 45_slice_frame_sequencer.md R226). -/

namespace Sys2Proof.Machine

open Sys2Proof

/-! ### Outcomes side by side -/

/-- Two meanings end alike, and where they answer next states these are related. -/
def OutRel (R : State → State → Prop) : Out → Out → Prop
  | .next s, .next s' => R s s'
  | .fault r, .fault r' => r = r'
  | .refused r, .refused r' => r = r'
  | _, _ => False

theorem OutRel.next {R : State → State → Prop} {s s' : State} (h : R s s') : OutRel R (.next s) (.next s') := h

theorem OutRel.exists_next {R : State → State → Prop} {o o' : Out} {t : State} (h : OutRel R o o') (ho : o = .next t) :
    ∃ t', o' = .next t' ∧ R t t' := by
  subst ho
  cases o' with
  | next t' => exact ⟨t', rfl, h⟩
  | fault r | refused r => exact h.elim

/-- A field read with the truncation test at one position of inputs of one length (R111). -/
theorem OutRel.skipc {R : State → State → Prop} {n : Nat} {k : Err} {s s' : State} {rest rest' : State → Out}
    (hpos : s'.pos = s.pos) (hlen : s'.len = s.len) (hfail : R (raise k (bcSkip n s)) (raise k (bcSkip n s')))
    (hrest : OutRel R (rest (bcSkip n s)) (rest' (bcSkip n s'))) : OutRel R (skipc n k s rest) (skipc n k s' rest') := by
  have hlimit : s'.limit = s.limit := by rw [State.limit, hlen, State.limit]
  rcases skipc_cases n k s rest with ⟨h, e⟩ | ⟨h, e⟩
  · rw [e, skipc_of_lt (by omega)]
    exact hfail
  · rw [e, skipc_of_le (by omega)]
    exact hrest

/-- A test that comes out alike on both sides. -/
theorem OutRel.ite {R : State → State → Prop} {p p' : Prop} [Decidable p] [Decidable p'] {a a' b b' : Out} (hp : p ↔ p')
    (ha : p → OutRel R a a') (hb : ¬ p → OutRel R b b') : OutRel R (if p then a else b) (if p' then a' else b') := by
  by_cases h : p
  · rw [if_pos h, if_pos (hp.mp h)]
    exact ha h
  · rw [if_neg h, if_neg (mt hp.mpr h)]
    exact hb h

/-- A test that comes out alike on both sides, where the meaning uses its outcome. -/
theorem OutRel.dite {R : State → State → Prop} {p p' : Prop} [Decidable p] [Decidable p'] {a : p → Out} {a' : p' → Out}
    {b b' : Out} (hp : p ↔ p') (ha : ∀ (h : p) (h' : p'), OutRel R (a h) (a' h')) (hb : OutRel R b b') :
    OutRel R (if h : p then a h else b) (if h : p' then a' h else b') := by
  by_cases h : p
  · rw [dif_pos h, dif_pos (hp.mp h)]
    exact ha h (hp.mp h)
  · rw [dif_neg h, dif_neg (mt hp.mpr h)]
    exact hb

/-- Two states at one place: the same picture, the same raster, the same macroblock and block. -/
structure SamePlace (s s' : State) : Prop where
  cfg : s'.cfg = s.cfg
  raster : s'.raster = s.raster
  width : s'.width = s.width
  height : s'.height = s.height
  slices : s'.slices = s.slices
  mbw : s'.mbw = s.mbw
  sliceIdx : s'.sliceIdx = s.sliceIdx
  mbIdx : s'.mbIdx = s.mbIdx
  blockIdx : s'.blockIdx = s.blockIdx

/-- What follows a macroblock is decided by its place (R217, R221). -/
theorem SamePlace.nextMacroblock {R : State → State → Prop} {s s' : State} (h : SamePlace s s')
    (hmb : R { s with mbIdx := s.mbIdx + 1, slot := .mbHdr } { s' with mbIdx := s'.mbIdx + 1, slot := .mbHdr })
    (hslice : R { s with sliceIdx := s.sliceIdx + 1, slot := .alignPad }
      { s' with sliceIdx := s'.sliceIdx + 1, slot := .alignPad })
    (htrailer : R { s with seq := .readTrailer, slot := .alignPad } { s' with seq := .readTrailer, slot := .alignPad }) :
    R (nextMacroblock s) (nextMacroblock s') := by
  have hmbIdx := h.mbIdx
  have hmbw := h.mbw
  have hsliceIdx := h.sliceIdx
  have hslices := h.slices
  rw [Machine.nextMacroblock, Machine.nextMacroblock]
  by_cases h1 : s.mbIdx + 1 < s.mbw
  · rw [if_pos h1, if_pos (show s'.mbIdx + 1 < s'.mbw by omega)]
    exact hmb
  · rw [if_neg h1, if_neg (show ¬ s'.mbIdx + 1 < s'.mbw by omega)]
    by_cases h2 : s.sliceIdx + 1 < s.slices
    · rw [if_pos h2, if_pos (show s'.sliceIdx + 1 < s'.slices by omega)]
      exact hslice
    · rw [if_neg h2, if_neg (show ¬ s'.sliceIdx + 1 < s'.slices by omega)]
      exact htrailer

/-- The pixels of a macroblock are decided by its place and the spatial blocks (R185 to R190). -/
theorem SamePlace.storeSample {s s' : State} (h : SamePlace s s') (hspat : s'.spat = s.spat) :
    storeSample s' = storeSample s := by
  obtain ⟨hcfg, -, hwidth, -, -, -, hslice, hmb, -⟩ := h
  have hpixel : pixelOf s' = pixelOf s := by
    cases s
    cases s'
    cases hcfg
    cases hspat
    rfl
  funext m i
  simp only [Machine.storeSample, hpixel, pixelX, pixelY, hcfg, hwidth, hslice, hmb]

/-- The end of a macroblock is decided by its place and the spatial blocks (R180). -/
theorem OutRel.endMacroblock {R : State → State → Prop} {s s' : State} (h : SamePlace s s') (hspat : s'.spat = s.spat)
    (hnext : ∀ m : Memory, R (nextMacroblock { s with raster := some m }) (nextMacroblock { s' with raster := some m })) :
    OutRel R (endMacroblock s) (endMacroblock s') := by
  have hfoot : footprintInside s' = footprintInside s := by
    simp only [footprintInside, h.mbIdx, h.width, h.sliceIdx, h.height]
  simp only [Machine.endMacroblock, storeMacroblock, h.raster, hfoot, h.storeSample hspat]
  cases s.raster with
  | none => rfl
  | some m =>
    by_cases hf : footprintInside s = true
    · simp only [hf, if_true]
      exact hnext _
    · simp only [hf]
      rfl

/-- The end of a block at one place (R184). -/
theorem OutRel.endBlock {R : State → State → Prop} {s s' : State} (h : SamePlace s s')
    (hspat : ¬ s.blockIdx.val < 5 → (idct s'.blockIdx s').spat = (idct s.blockIdx s).spat)
    (hnext : ∀ (hb : s.blockIdx.val < 5) (hb' : s'.blockIdx.val < 5),
      R { idct s.blockIdx s with blockIdx := ⟨s.blockIdx.val + 1, by omega⟩, slot := .dc }
        { idct s'.blockIdx s' with blockIdx := ⟨s'.blockIdx.val + 1, by omega⟩, slot := .dc })
    (hlast : ∀ m : Memory, R (nextMacroblock { idct s.blockIdx s with raster := some m })
      (nextMacroblock { idct s'.blockIdx s' with raster := some m })) :
    OutRel R (endBlock s) (endBlock s') := by
  have hblock : s'.blockIdx.val = s.blockIdx.val := congrArg Fin.val h.blockIdx
  by_cases hb : s.blockIdx.val < 5
  · rw [endBlock_of_lt hb, endBlock_of_lt (by omega)]
    exact hnext hb (by omega)
  · rw [endBlock_of_last hb, endBlock_of_last (by omega)]
    exact endMacroblock { h with } (hspat hb) hlast

/-- A run of one step more, after a step that answers a next state. -/
theorem run_succ_of_next {k : Nat} {s t : State} (h : step s = .next t) :
    Host.Core.run Sys2Proof.core (k + 1) s = Host.Core.run Sys2Proof.core k t := by
  have h : Sys2Proof.core.step s = .next t := h
  simp only [Host.Core.run, h]

theorem run_succ_of_fault {k : Nat} {s : State} {r : Fault} (h : step s = .fault r) :
    Host.Core.run Sys2Proof.core (k + 1) s = .fault r := by
  have h : Sys2Proof.core.step s = .fault r := h
  simp only [Host.Core.run, h]

theorem run_succ_of_refused {k : Nat} {s : State} {r : Refusal} (h : step s = .refused r) :
    Host.Core.run Sys2Proof.core (k + 1) s = .refused r := by
  have h : Sys2Proof.core.step s = .refused r := h
  simp only [Host.Core.run, h]

/-- A relation that every step keeps is kept by runs of any length. -/
theorem run_outRel {R : State → State → Prop} (hstep : ∀ s s', R s s' → OutRel R (step s) (step s')) (k : Nat) {s s' : State}
    (h : R s s') : OutRel R (Host.Core.run Sys2Proof.core k s) (Host.Core.run Sys2Proof.core k s') := by
  induction k generalizing s s' with
  | zero => exact h
  | succ k ih =>
    have hs := hstep s s' h
    cases hs1 : step s <;> cases hs2 : step s' <;> rw [hs1, hs2] at hs
    case next.next t t' =>
      rw [run_succ_of_next hs1, run_succ_of_next hs2]
      exact ih hs
    case fault.fault r r' =>
      rw [run_succ_of_fault hs1, run_succ_of_fault hs2]
      exact hs
    case refused.refused r r' =>
      rw [run_succ_of_refused hs1, run_succ_of_refused hs2]
      exact hs
    all_goals exact hs.elim

/-! ### The host's clock -/

/-- The state with another clock: another measured duration and another number of values drawn. -/
def State.withClock (s : State) (seconds : NonNegF64) (draws : Nat) : State :=
  { s with decodeSeconds := seconds, clockDraws := draws }

/-- The states differ in the host's clock at most. -/
def SameButClock (s s' : State) : Prop := s.dropClock = s'.dropClock

theorem SameButClock.eq_withClock {s s' : State} (h : SameButClock s s') :
    s' = s.withClock s'.decodeSeconds s'.clockDraws :=
  (congrArg (fun u => u.withClock s'.decodeSeconds s'.clockDraws) h).symm

section

variable (s : State) (d : NonNegF64) (n : Nat)

@[simp] theorem fetch_withClock : fetch (s.withClock d n) = fetch s := rfl

@[simp] theorem running_withClock : (s.withClock d n).running = s.running := rfl

theorem afterAlign_withClock : afterAlign (s.withClock d n) = (afterAlign s).withClock d n := by
  unfold afterAlign
  cases h : s.seq <;> simp only [State.withClock, h]

theorem samePlace_withClock : SamePlace s (s.withClock d n) := ⟨rfl, rfl, rfl, rfl, rfl, rfl, rfl, rfl, rfl⟩

theorem endBlock_withClock : OutRel SameButClock (endBlock s) (endBlock (s.withClock d n)) :=
  OutRel.endBlock (samePlace_withClock s d n) (fun _ => rfl) (fun _ _ => rfl) fun _ =>
    SamePlace.nextMacroblock { samePlace_withClock s d n with raster := rfl } rfl rfl rfl

theorem picHdr_withClock (psc : Marker) (fmt : BitVec 2) (scale : BitVec 3) (m : Bits) :
    OutRel SameButClock (execPicHdr psc fmt scale m s) (execPicHdr psc fmt scale m (s.withClock d n)) := by
  refine OutRel.skipc rfl rfl rfl (OutRel.ite Iff.rfl (fun _ => rfl) fun _ => ?_)
  refine OutRel.skipc rfl rfl rfl (OutRel.ite Iff.rfl (fun _ => rfl) fun _ => ?_)
  refine OutRel.skipc rfl rfl rfl (OutRel.ite Iff.rfl (fun _ => rfl) fun _ => ?_)
  exact OutRel.skipc rfl rfl rfl (OutRel.ite Iff.rfl (fun _ => rfl) fun _ => rfl)

theorem dc_withClock (v : BitVec 10) : OutRel SameButClock (execDc v s) (execDc v (s.withClock d n)) := by
  refine OutRel.skipc rfl rfl rfl (OutRel.ite Iff.rfl (fun _ => rfl) fun _ => ?_)
  exact endBlock_withClock (deqDc v (bcSkip 10 (clearCoef s))) d n

theorem trailer_withClock (m : Marker) : OutRel SameButClock (execTrailer m s) (execTrailer m (s.withClock d n)) := by
  refine OutRel.skipc rfl rfl rfl ?_
  show SameButClock (finish (if m ≠ s.cfg.eop then _ else _)) (finish (if m ≠ s.cfg.eop then _ else _))
  split_ifs <;> rfl

theorem levelSymbol_withClock (sg : BitVec 1) (m : Nat) :
    OutRel SameButClock (levelSymbol sg m s) (levelSymbol sg m (s.withClock d n)) :=
  OutRel.skipc rfl rfl rfl (OutRel.dite Iff.rfl (fun _ _ => rfl) rfl)

/-- Every element does the same whatever the clock is. -/
theorem exec_withClock (i : Instr) : OutRel SameButClock (exec i s) (exec i (s.withClock d n)) := by
  cases i using Instr.family_cases with
  | alignPad pad =>
    show SameButClock (afterAlign (bcAlign s)) (afterAlign ((bcAlign s).withClock d n))
    rw [afterAlign_withClock]
    rfl
  | picHdr psc fmt scale m => exact picHdr_withClock s d n psc fmt scale m
  | gobHdr m bits =>
    show OutRel _ (execGobHdr m bits s) (execGobHdr m bits _)
    exact OutRel.skipc rfl rfl rfl (OutRel.skipc rfl rfl rfl rfl)
  | eosMark =>
    show OutRel _ (execEosMark s) (execEosMark _)
    exact OutRel.skipc rfl rfl rfl rfl
  | trailer m => exact trailer_withClock s d n m
  | badMark m =>
    show OutRel _ (execBadMark m s) (execBadMark m _)
    exact OutRel.skipc rfl rfl rfl rfl
  | mbHdrC =>
    show OutRel _ (execMbHdrC s) (execMbHdrC _)
    exact OutRel.skipc rfl rfl rfl rfl
  | mbHdr flags =>
    show OutRel _ (execMbHdr flags s) (execMbHdr flags _)
    exact OutRel.skipc rfl rfl rfl (OutRel.skipc rfl rfl rfl rfl)
  | mbHdrR flags rsv =>
    show OutRel _ (execMbHdrR flags rsv s) (execMbHdrR flags rsv _)
    exact OutRel.skipc rfl rfl rfl (OutRel.skipc rfl rfl rfl (OutRel.skipc rfl rfl rfl rfl))
  | mbHdrInvalid low =>
    show OutRel _ (execMbHdrInvalid low s) (execMbHdrInvalid low _)
    exact OutRel.skipc rfl rfl rfl (OutRel.skipc rfl rfl rfl rfl)
  | dc v => exact dc_withClock s d n v
  | run j m r h =>
    rw [exec_of_runOf h, exec_of_runOf h]
    exact OutRel.skipc rfl rfl rfl rfl
  | level j m v h =>
    rw [exec_of_levelOf h, exec_of_levelOf h]
    exact levelSymbol_withClock s d n _ _
  | eob => exact OutRel.skipc rfl rfl rfl (endBlock_withClock (bcSkip (levelCodeLength .eob s) s) d n)
  | runReserved | levelReserved => rfl

end

/-- A step keeps the relation: the same element runs. -/
theorem step_sameButClock (s s' : State) (h : SameButClock s s') : OutRel SameButClock (step s) (step s') := by
  rw [h.eq_withClock]
  by_cases hrun : s.running = true
  · rw [step_of_running hrun, step_of_running (by simpa using hrun), fetch_withClock]
    exact exec_withClock s _ _ _
  · have hrun : s.running = false := by simpa using hrun
    rw [step_of_not_running hrun, step_of_not_running (by simpa using hrun)]
    rfl

/-- The result of a call without its duration does not depend on the clock (R226). -/
theorem callResult_sameButClock {s s' : State} (h : SameButClock s s') :
    (callResult s').map CallResult.dropSeconds = (callResult s).map CallResult.dropSeconds := by
  have result : ∀ u : State,
      (callResult u).map CallResult.dropSeconds = (callResult u.dropClock).map CallResult.dropSeconds := by
    intro u
    cases hseq : u.seq
    case done =>
      by_cases herr : u.err = .badTrailer
      · rw [callResult_of_suspect hseq herr, callResult_of_suspect (s := u.dropClock) hseq herr]
        rfl
      · rw [callResult_of_done hseq herr, callResult_of_done (s := u.dropClock) hseq herr]
        rfl
    all_goals simp only [callResult, State.dropClock, hseq]
  rw [result s, h, ← result s']

end Sys2Proof.Machine

namespace Sys2Proof.Proofs

open Sys2Proof Sys2Proof.Machine

/-- Settles O25: two runs that differ in the clock run the same elements, and no element reads the clock. -/
theorem hostClockInfluencesOnlyItself : Obligations.HostClockInfluencesOnlyItself := by
  intro k s s' t h hrun
  obtain ⟨t', hrun', ht⟩ := (run_outRel step_sameButClock k h).exists_next hrun
  exact ⟨t', hrun', ht.symm⟩

/-- Settles O26: two calls of one configuration on the same bytes start in states that differ in the clock at most. -/
theorem resultDependsOnTheBufferAlone : Obligations.ResultDependsOnTheBufferAlone := by
  intro bytes a b u v t k hcfg hu hv hrun
  have started : ∀ {a u : State}, hostStart bytes a = .next u → u = atStart a.cfg a.clockDraws bytes := fun {a u} h => by
    by_cases ha : a.running = true
    · rw [hostStart_of_running bytes ha] at h
      cases h
    · rw [hostStart_of_not_running bytes (by simpa using ha)] at h
      cases h
      rfl
  have huv : SameButClock u v := by
    rw [started hu, started hv, hcfg]
    rfl
  obtain ⟨t', hrun', ht⟩ := (run_outRel step_sameButClock k huv).exists_next hrun
  have hseq : t'.seq = t.seq := (congrArg State.seq ht).symm
  have hpos : t'.pos = t.pos := (congrArg State.pos ht).symm
  exact ⟨t', hrun', hseq, hpos, callResult_sameButClock ht⟩

end Sys2Proof.Proofs
end

section
/-! SUPPORT. The registers that reset leaves unspecified (spec 10_state.md R44; 70_reset_and_hazards.md R272): where each of
them has been written, and that two runs in which they differ elsewhere only go on so. -/

namespace Sys2Proof

/-- The grammar positions inside a block, where the descriptor of the macroblock has been read (R184). -/
def Slot.inBlock (p : Slot) : Prop := p = .dc ∨ p = .run ∨ p = .level

end Sys2Proof

namespace Sys2Proof.Machine

open Sys2Proof

/-! ### Where a register has been written -/

/-- The picture header has been read, and the call has not failed (R216). -/
def State.headerRead (s : State) : Prop :=
  s.seq ≠ .failed ∧ (s.seq ≠ .readHeader ∨ s.slot ≠ .alignPad ∧ s.slot ≠ .picHdr)

/-- The picture has the same size in both states (R213, R216). -/
def State.SameSize (s u : State) : Prop :=
  u.width = s.width ∧ u.height = s.height ∧ u.slices = s.slices ∧ u.mbw = s.mbw

/-- The unspecified registers of `u` are those of `s` where the call has written them: the size after the picture header,
the descriptor and the spatial blocks before `B` inside a block, the coefficients and the scan index in the AC loop. -/
structure State.AgreesOnWritten (s u : State) : Prop where
  size : s.headerRead → s.SameSize u
  desc : s.slot.inBlock → u.desc = s.desc
  spat : s.slot.inBlock → ∀ b : Fin 6, b < s.blockIdx → u.spat[b] = s.spat[b]
  ac : s.slot = .run ∨ s.slot = .level → u.coef = s.coef ∧ u.idx = s.idx

/-- Outside the blocks only the size counts. -/
theorem State.AgreesOnWritten.of_outside {s u : State} {p : Slot} (hs : s.slot = p)
    (hp : p ≠ .dc ∧ p ≠ .run ∧ p ≠ .level) (hsize : s.headerRead → s.SameSize u) : s.AgreesOnWritten u := by
  have hout : ¬ s.slot.inBlock := by
    rw [hs]
    rintro (e | e | e)
    · exact hp.1 e
    · exact hp.2.1 e
    · exact hp.2.2 e
  exact ⟨hsize, fun h => absurd h hout, fun h => absurd h hout, fun h => absurd (.inr h) hout⟩

/-- The states differ only in unspecified registers that the call has not written yet. -/
def SameWritten (s s' : State) : Prop := ∃ u, s' = s.withUnspecified u ∧ s.AgreesOnWritten u

/-- Such states give one result: a failed call shows no unspecified register, and a call that is `Done` the size only
(R225). -/
theorem callResult_sameWritten {s s' : State} (h : SameWritten s s') : callResult s' = callResult s := by
  obtain ⟨u, rfl, hs⟩ := h
  cases hseq : s.seq
  case done =>
    obtain ⟨hwidth, hheight, -, -⟩ := hs.size ⟨by simp [hseq], .inl (by simp [hseq])⟩
    have hraster : rasterBytes (s.withUnspecified u) = rasterBytes s := by
      simp only [rasterBytes, State.rasterSize, State.withUnspecified, hwidth, hheight]
    by_cases herr : s.err = .badTrailer
    · rw [callResult_of_suspect hseq herr, callResult_of_suspect (s := s.withUnspecified u) hseq herr, hraster, ← hwidth,
        ← hheight]
      rfl
    · rw [callResult_of_done hseq herr, callResult_of_done (s := s.withUnspecified u) hseq herr, hraster, ← hwidth,
        ← hheight]
      rfl
  all_goals simp only [callResult, State.withUnspecified, hseq]

/-! ### Operations side by side -/

/-- `DEQ.AC` at one scan index of one buffer (R152). -/
theorem deqAc_coef_congr {s t : State} {i j : Fin 64} (hcfg : t.cfg = s.cfg) (hcoef : t.coef = s.coef) (hij : j = i)
    (v : Int) : (deqAc j v t).coef = (deqAc i v s).coef := by
  subst hij
  simp only [deqAc_coef, hcfg, hcoef]

theorem afterAlign_withUnspecified (s u : State) :
    afterAlign (s.withUnspecified u) = (afterAlign s).withUnspecified u := by
  unfold afterAlign
  cases h : s.seq <;> simp only [State.withUnspecified, h]

/-- The padding is followed by a header, a marker or, after the call, nothing (R70). -/
theorem afterAlign_outside {s : State} (h : s.slot = .alignPad) :
    (afterAlign s).slot ≠ .dc ∧ (afterAlign s).slot ≠ .run ∧ (afterAlign s).slot ≠ .level := by
  rw [afterAlign_slot, h]
  cases s.seq <;> decide

/-- The padding before the picture header is not followed by an element that needs the size. -/
theorem afterAlign_headerRead {s : State} (h : (afterAlign s).headerRead) : s.seq ≠ .failed ∧ s.seq ≠ .readHeader := by
  obtain ⟨hfailed, hread⟩ := h
  rw [afterAlign_seq] at hfailed hread
  refine ⟨hfailed, fun hseq => ?_⟩
  rw [afterAlign_slot, hseq] at hread
  exact (hread.resolve_left (absurd rfl)).2 rfl

/-! ### Each element keeps the relation -/

namespace SameWritten

variable {s s' u : State}

theorem of (h : s' = s.withUnspecified s') (hs : s.AgreesOnWritten s') : SameWritten s s' := ⟨s', h, hs⟩

theorem bcSkip (h : SameWritten s s') (n : Nat) : SameWritten (bcSkip n s) (bcSkip n s') := by
  obtain ⟨u, rfl, hs⟩ := h
  exact of rfl ⟨hs.size, hs.desc, hs.spat, hs.ac⟩

/-- A failure shows no unspecified register (R250). -/
theorem raise (h : SameWritten s s') (k : Err) : SameWritten (raise k s) (raise k s') := by
  obtain ⟨u, rfl, hs⟩ := h
  exact of rfl ⟨fun hread => absurd rfl hread.1, hs.desc, hs.spat, hs.ac⟩

theorem skipc (h : SameWritten s s') {n : Nat} {k : Err} {rest rest' : State → Out}
    (hrest : SameWritten (Machine.bcSkip n s) (Machine.bcSkip n s') →
      OutRel SameWritten (rest (Machine.bcSkip n s)) (rest' (Machine.bcSkip n s'))) :
    OutRel SameWritten (skipc n k s rest) (skipc n k s' rest') := by
  have hskip := h.bcSkip n
  obtain ⟨u, rfl, -⟩ := h
  exact OutRel.skipc rfl rfl (hskip.raise k) (hrest hskip)

/-- Outside the blocks the relation asks for the size only. -/
theorem of_outside {p : Slot} (h : s' = s.withUnspecified s') (hslot : s.slot = p)
    (hp : p ≠ .dc ∧ p ≠ .run ∧ p ≠ .level) (hsize : s.headerRead → s.SameSize s') : SameWritten s s' :=
  of h (.of_outside hslot hp hsize)

end SameWritten

namespace State.AgreesOnWritten

variable {s u : State}

theorem sameWritten (hs : s.AgreesOnWritten u) : SameWritten s (s.withUnspecified u) := ⟨u, rfl, hs⟩

/-- ALIGNPAD leads to the picture header, before which no size is known, or to a marker (R70). -/
theorem alignPad (hs : s.AgreesOnWritten u) (hslot : s.slot = .alignPad) (pad : Bits) :
    OutRel SameWritten (execAlignPad pad s) (execAlignPad pad (s.withUnspecified u)) := by
  show SameWritten (afterAlign (bcAlign s)) (afterAlign ((bcAlign s).withUnspecified u))
  rw [afterAlign_withUnspecified]
  refine sameWritten (of_outside rfl (afterAlign_outside hslot) fun hread => ?_)
  obtain ⟨hfailed, hheader⟩ := afterAlign_headerRead hread
  simpa [State.SameSize] using hs.size ⟨hfailed, .inl hheader⟩

/-- PICHDR writes the size before a register of it is needed (R212 to R216). -/
theorem picHdr (hs : s.AgreesOnWritten u) (hslot : s.slot = .picHdr) (psc : Marker) (fmt : BitVec 2) (scale : BitVec 3)
    (d : Bits) : OutRel SameWritten (execPicHdr psc fmt scale d s) (execPicHdr psc fmt scale d (s.withUnspecified u)) := by
  refine hs.sameWritten.skipc fun h => OutRel.ite Iff.rfl (fun _ => h.raise _) fun _ => ?_
  refine h.skipc fun _ => ?_
  have hfmt : SameWritten { bcSkip 2 (bcSkip 22 s) with fmt := fmt }
      { bcSkip 2 (bcSkip 22 (s.withUnspecified u)) with fmt := fmt } := .of_outside rfl hslot (by decide) hs.size
  refine OutRel.ite Iff.rfl (fun _ => hfmt.raise _) fun _ => hfmt.skipc fun _ => ?_
  have hscale : SameWritten { bcSkip 3 { bcSkip 2 (bcSkip 22 s) with fmt := fmt } with scale := scale }
      { bcSkip 3 { bcSkip 2 (bcSkip 22 (s.withUnspecified u)) with fmt := fmt } with scale := scale } :=
    .of_outside rfl hslot (by decide) hs.size
  refine OutRel.ite Iff.rfl (fun _ => hscale.raise _) fun _ => ?_
  refine SameWritten.skipc ?_ fun h => ?_
  · exact .of_outside rfl hslot (by decide) fun hread => ⟨rfl, rfl, (hs.size hread).2.2⟩
  · exact OutRel.ite Iff.rfl (fun _ => h.raise _) fun _ =>
      .next (.of_outside rfl rfl (p := .mbHdr) (by decide) fun _ => ⟨rfl, rfl, rfl, rfl⟩)

/-- A marker that opens a slice (R220, R221). -/
theorem gobHdr (hs : s.AgreesOnWritten u) (hread : s.headerRead) (m : Marker) (d : Bits) :
    OutRel SameWritten (execGobHdr m d s) (execGobHdr m d (s.withUnspecified u)) :=
  hs.sameWritten.skipc fun h => h.skipc fun _ =>
    .next (.of_outside rfl rfl (p := .mbHdr) (by decide) fun _ => hs.size hread)

theorem eosMark (hs : s.AgreesOnWritten u) (hslot : s.slot = .sliceHdr) (hread : s.headerRead) :
    OutRel SameWritten (execEosMark s) (execEosMark (s.withUnspecified u)) :=
  hs.sameWritten.skipc fun _ => .next (.of_outside rfl hslot (by decide) fun _ => hs.size hread)

theorem trailer (hs : s.AgreesOnWritten u) (hslot : s.slot = .trailer) (hread : s.headerRead) (m : Marker) :
    OutRel SameWritten (execTrailer m s) (execTrailer m (s.withUnspecified u)) := by
  refine hs.sameWritten.skipc fun _ => ?_
  show SameWritten (finish (if m ≠ s.cfg.eop then _ else _)) (finish (if m ≠ s.cfg.eop then _ else _))
  split_ifs
  · exact .of_outside rfl hslot (by decide) fun _ => hs.size hread
  · exact .of_outside rfl hslot (by decide) fun _ => hs.size hread

/-- The block loop begins with the descriptor just read and with no spatial block needed (R184). -/
theorem enterBlocks (hsize : s.SameSize u) (hdesc : u.desc = s.desc) :
    SameWritten (enterBlocks s) (enterBlocks (s.withUnspecified u)) :=
  .of rfl ⟨fun _ => hsize, fun _ => hdesc, fun _ b hb => absurd hb (Fin.not_lt_zero b),
    fun h => by rcases h with h | h <;> cases h⟩

theorem badMark (hs : s.AgreesOnWritten u) (m : Marker) :
    OutRel SameWritten (execBadMark m s) (execBadMark m (s.withUnspecified u)) :=
  hs.sameWritten.skipc fun h => .next (h.raise _)

theorem mbHdrC (hs : s.AgreesOnWritten u) : OutRel SameWritten (execMbHdrC s) (execMbHdrC (s.withUnspecified u)) :=
  hs.sameWritten.skipc fun h => .next (h.raise _)

theorem mbHdr (hs : s.AgreesOnWritten u) (hread : s.headerRead) (flags : BitVec 6) :
    OutRel SameWritten (execMbHdr flags s) (execMbHdr flags (s.withUnspecified u)) := by
  refine hs.sameWritten.skipc fun h => h.skipc fun _ => .next ?_
  exact enterBlocks (s := acceptDesc _ (bcSkip 8 (bcSkip 1 s)))
    (u := acceptDesc _ (bcSkip 8 (bcSkip 1 (s.withUnspecified u)))) (hs.size hread) rfl

theorem mbHdrR (hs : s.AgreesOnWritten u) (hslot : s.slot = .mbHdr) (hread : s.headerRead) (flags : BitVec 6)
    (rsv : BitVec 2) : OutRel SameWritten (execMbHdrR flags rsv s) (execMbHdrR flags rsv (s.withUnspecified u)) := by
  refine hs.sameWritten.skipc fun h => h.skipc fun _ => SameWritten.skipc ?_ fun _ => .next ?_
  · exact .of_outside rfl hslot (by decide) fun _ => hs.size hread
  · exact enterBlocks (s := bcSkip 2 (acceptDesc _ (bcSkip 8 (bcSkip 1 s))))
      (u := bcSkip 2 (acceptDesc _ (bcSkip 8 (bcSkip 1 (s.withUnspecified u))))) (hs.size hread) rfl

theorem mbHdrInvalid (hs : s.AgreesOnWritten u) (hslot : s.slot = .mbHdr) (hread : s.headerRead) (low : BitVec 7) :
    OutRel SameWritten (execMbHdrInvalid low s) (execMbHdrInvalid low (s.withUnspecified u)) := by
  refine hs.sameWritten.skipc fun h => h.skipc fun _ => .next (SameWritten.raise ?_ _)
  exact .of_outside rfl hslot (by decide) fun _ => hs.size hread

/-- The end of a block: the block's own samples come from its coefficients, and the macroblock is stored from six blocks
that this macroblock has written (R160, R184). -/
theorem endBlock (hsize : s.SameSize u) (hdesc : u.desc = s.desc)
    (hspat : ∀ b : Fin 6, b < s.blockIdx → u.spat[b] = s.spat[b]) (hcoef : u.coef = s.coef) :
    OutRel SameWritten (endBlock s) (endBlock (s.withUnspecified u)) := by
  obtain ⟨hwidth, hheight, hslices, hmbw⟩ := hsize
  have place : SamePlace s (s.withUnspecified u) := ⟨rfl, rfl, hwidth, hheight, hslices, hmbw, rfl, rfl, rfl⟩
  have written : ∀ b : Fin 6, b.val < s.blockIdx.val + 1 →
      (idct s.blockIdx (s.withUnspecified u)).spat[b] = (idct s.blockIdx s).spat[b] := fun b hb => by
    by_cases h : b = s.blockIdx
    · have hcoef' : (s.withUnspecified u).coef = s.coef := hcoef
      rw [h, idct_spat_same, idct_spat_same, hcoef']
      rfl
    · rw [idct_spat_other h, idct_spat_other h]
      have : b.val ≠ s.blockIdx.val := fun e => h (Fin.ext e)
      exact hspat b (by omega)
  refine OutRel.endBlock place (fun hlast => ?_) (fun _ _ => ?_) fun m => ?_
  · exact Vector.ext fun b hb => written ⟨b, hb⟩ (by show b < _; omega)
  · exact .of rfl ⟨fun _ => ⟨hwidth, hheight, hslices, hmbw⟩, fun _ => hdesc, fun _ => written,
      fun h => by rcases h with h | h <;> cases h⟩
  · have size : s.SameSize u := ⟨hwidth, hheight, hslices, hmbw⟩
    refine SamePlace.nextMacroblock { place with raster := rfl } ?_ ?_ ?_
    · exact .of_outside rfl rfl (p := .mbHdr) (by decide) fun _ => size
    · exact .of_outside rfl rfl (p := .alignPad) (by decide) fun _ => size
    · exact .of_outside rfl rfl (p := .alignPad) (by decide) fun _ => size

/-- DC clears the coefficients and writes the first, so that none of before is needed (R121 to R123). -/
theorem dc (hs : s.AgreesOnWritten u) (hslot : s.slot = .dc) (hread : s.headerRead) (v : BitVec 10) :
    OutRel SameWritten (execDc v s) (execDc v (s.withUnspecified u)) := by
  have hblock : s.slot.inBlock := .inl hslot
  have hdesc := hs.desc hblock
  have hclear : SameWritten (clearCoef s) (clearCoef (s.withUnspecified u)) :=
    .of rfl ⟨hs.size, hs.desc, hs.spat, fun h => by rw [clearCoef_slot, hslot] at h; rcases h with h | h <;> cases h⟩
  refine hclear.skipc fun _ => OutRel.ite ?_ (fun _ => ?_) fun _ => ?_
  · show s.hasAc s.blockIdx = true ↔ (s.withUnspecified u).hasAc s.blockIdx = true
    rw [State.hasAc, State.hasAc, show (s.withUnspecified u).desc = s.desc from hdesc]
  · exact .next (.of rfl ⟨fun _ => hs.size hread, fun _ => hdesc, fun _ => hs.spat hblock, fun _ => ⟨rfl, rfl⟩⟩)
  · exact endBlock (s := deqDc v (bcSkip 10 (clearCoef s))) (u := deqDc v (bcSkip 10 (clearCoef (s.withUnspecified u))))
      (hs.size hread) hdesc (hs.spat hblock) rfl

theorem runSymbol (hs : s.AgreesOnWritten u) (hslot : s.slot = .run) (hread : s.headerRead) (r : Nat) :
    OutRel SameWritten (runSymbol r s) (runSymbol r (s.withUnspecified u)) := by
  have hblock : s.slot.inBlock := .inr (.inl hslot)
  obtain ⟨hcoef, hidx⟩ := hs.ac (.inl hslot)
  have hidx' : u.idx + r = s.idx + r := by rw [hidx]
  refine hs.sameWritten.skipc fun _ => .next ?_
  exact .of rfl ⟨fun _ => hs.size hread, fun _ => hs.desc hblock, fun _ => hs.spat hblock, fun _ => ⟨hcoef, hidx'⟩⟩

theorem levelSymbol (hs : s.AgreesOnWritten u) (hslot : s.slot = .level) (hread : s.headerRead) (sg : BitVec 1) (m : Nat) :
    OutRel SameWritten (levelSymbol sg m s) (levelSymbol sg m (s.withUnspecified u)) := by
  have hblock : s.slot.inBlock := .inr (.inr hslot)
  obtain ⟨hcoef, hidx⟩ := hs.ac (.inr hslot)
  refine hs.sameWritten.skipc fun h => OutRel.dite ?_ (fun _ _ => ?_) (h.raise _)
  · show s.idx < 64 ↔ u.idx < 64
    rw [hidx]
  · refine .next (.of rfl ⟨fun _ => hs.size hread, fun _ => hs.desc hblock, fun _ => hs.spat hblock, fun _ => ⟨?_, ?_⟩⟩)
    · exact deqAc_coef_congr (s := bcSkip _ s) (t := bcSkip _ (s.withUnspecified u)) rfl hcoef (Fin.ext hidx) _
    · exact congrArg (· + 1) hidx

theorem eob (hs : s.AgreesOnWritten u) (hslot : s.slot = .level) (hread : s.headerRead) :
    OutRel SameWritten (execEob s) (execEob (s.withUnspecified u)) := by
  have hblock : s.slot.inBlock := .inr (.inr hslot)
  refine hs.sameWritten.skipc fun _ => ?_
  exact endBlock (s := bcSkip (levelCodeLength .eob s) s) (u := u) (hs.size hread) (hs.desc hblock) (hs.spat hblock)
    (hs.ac (.inr hslot)).1

/-- Every element keeps the relation at its grammar position. -/
theorem exec {i : Instr} (hs : s.AgreesOnWritten u) (hslot : i.slot = s.slot) (hseq : s.seq ≠ .failed) :
    OutRel SameWritten (exec i s) (exec i (s.withUnspecified u)) := by
  have hread : i.slot ≠ .alignPad → i.slot ≠ .picHdr → s.headerRead := fun h h' => ⟨hseq, .inr (hslot ▸ ⟨h, h'⟩)⟩
  have fails : OutRel SameWritten (.next (raise .truncatedBlock s)) (.next (raise .truncatedBlock (s.withUnspecified u))) :=
    .next (hs.sameWritten.raise _)
  cases i using Instr.family_cases with
  | alignPad pad => exact hs.alignPad hslot.symm pad
  | picHdr psc fmt scale d => exact hs.picHdr hslot.symm psc fmt scale d
  | gobHdr m d => exact hs.gobHdr (hread nofun nofun) m d
  | eosMark => exact hs.eosMark hslot.symm (hread nofun nofun)
  | trailer m => exact hs.trailer hslot.symm (hread nofun nofun) m
  | badMark m => exact hs.badMark m
  | mbHdrC => exact hs.mbHdrC
  | mbHdr flags => exact hs.mbHdr (hread nofun nofun) flags
  | mbHdrR flags rsv => exact hs.mbHdrR hslot.symm (hread nofun nofun) flags rsv
  | mbHdrInvalid low => exact hs.mbHdrInvalid hslot.symm (hread nofun nofun) low
  | dc v => exact hs.dc hslot.symm (hread nofun nofun) v
  | run i n r h =>
    have hi := slot_of_runOf h
    rw [exec_of_runOf h, exec_of_runOf h]
    exact hs.runSymbol (hslot.symm.trans hi) (hread (by simp [hi]) (by simp [hi])) r
  | level i n v h =>
    have hi := slot_of_levelOf h
    rw [exec_of_levelOf h, exec_of_levelOf h]
    exact hs.levelSymbol (hslot.symm.trans hi) (hread (by simp [hi]) (by simp [hi])) _ _
  | eob => exact hs.eob hslot.symm (hread nofun nofun)
  | runReserved | levelReserved => exact fails

end State.AgreesOnWritten

/-! ### Whole calls -/

/-- A step keeps the relation: the same element runs, at its grammar position. -/
theorem step_sameWritten (s s' : State) (h : SameWritten s s') : OutRel SameWritten (step s) (step s') := by
  obtain ⟨u, rfl, hs⟩ := h
  have hrun' : (s.withUnspecified u).running = s.running := rfl
  have hfetch : fetch (s.withUnspecified u) = fetch s := rfl
  by_cases hrun : s.running = true
  · obtain ⟨-, -, hfailed⟩ := (running_iff s).mp hrun
    rw [step_of_running hrun, step_of_running (hrun'.trans hrun), hfetch]
    exact hs.exec (fetch_slot s) hfailed
  · have hrun : s.running = false := by simpa using hrun
    rw [step_of_not_running hrun, step_of_not_running (hrun'.trans hrun)]
    exact .next hs.sameWritten

/-- At the start of a call no unspecified register has been written. -/
theorem sameWritten_atStart (c : Cfg) (draws : Nat) (bytes : List Byte) (u : State) :
    SameWritten (atStart c draws bytes) ((atStart c draws bytes).withUnspecified u) :=
  .of_outside rfl rfl (p := .alignPad) (by decide) fun hread => absurd rfl (hread.2.resolve_left (absurd rfl)).1

theorem running_sameWritten {s s' : State} (h : SameWritten s s') : s'.running = s.running := by
  obtain ⟨u, rfl, -⟩ := h
  rfl

end Sys2Proof.Machine

namespace Sys2Proof.Proofs

open Sys2Proof Sys2Proof.Machine

/-- Settles O27: the relation holds at the start of a call, every step keeps it, and related states give one result. -/
theorem unspecifiedRegistersInfluenceNoResult : Obligations.UnspecifiedRegistersInfluenceNoResult := by
  intro c draws bytes u t k hrun hend
  obtain ⟨t', hrun', ht⟩ := (run_outRel step_sameWritten k (sameWritten_atStart c draws bytes u)).exists_next hrun
  exact ⟨t', hrun', (running_sameWritten ht).trans hend, callResult_sameWritten ht⟩

end Sys2Proof.Proofs
end

section
/-! SUPPORT. The input stream: which buffer byte a stream bit comes from, and that the bytes the assembler packs deliver its
bits (spec 20_memory.md R51, R53; 30_encoding.md R84). -/

namespace Sys2Proof

/-- The bits of a packed byte, its first stream bit the most significant (R84). -/
theorem toBits_packByte (bits : Bits) (a : Nat) :
    toBits (packByte bits a) = (List.range 8).map fun j => bitAt bits (streamIndex a j) := by
  have h := toBits_ofNat_bitsToNat ((List.range 8).map fun j => bitAt bits (streamIndex a j))
  rwa [List.length_map, List.length_range] at h

theorem getLsbD_packByte (bits : Bits) (a : Nat) {j : Nat} (hj : j < 8) :
    (packByte bits a).getLsbD (7 - j) = bitAt bits (streamIndex a j) := by
  have h := congrArg (·[j]?) (toBits_packByte bits a)
  simpa [toBits, hj, BitVec.getMsbD] using h

@[simp] theorem packBytes_length (bits : Bits) : (packBytes bits).length = 4 * ((bits.length + 31) / 32) := by
  simp [packBytes]

theorem packBytes_getD {bits : Bits} {a : Nat} (h : a < (packBytes bits).length) :
    (packBytes bits).getD a 0 = packByte bits a := by
  rw [packBytes_length] at h
  simp [packBytes, h]

/-- A bit that the run does not hold is 0 (R53). -/
theorem bitAt_of_le {bits : Bits} {k : Nat} (h : bits.length ≤ k) : bitAt bits k = false := by
  simp [bitAt, h]

end Sys2Proof

namespace Sys2Proof.Machine

open Sys2Proof

/-- `streamIndex` goes back from the byte and the place of a stream bit to the bit (R51). -/
theorem streamIndex_streamByte (k : Nat) : streamIndex (streamByte k) (k % 8) = k := by
  unfold streamIndex streamByte
  omega

/-- A stream bit with its byte inside the buffer is a bit of that byte (R51). -/
theorem sbit_of_lt {s : State} {k : Nat} (h : streamByte k < s.len) :
    s.sbit k = (Memory.read 0 s.buf (streamByte k)).getLsbD (7 - k % 8) := by
  rw [State.sbit, State.bufByte, if_pos h]

/-- A stream bit with its byte past the buffer is 0 (R53). -/
theorem sbit_of_le {s : State} {k : Nat} (h : s.len ≤ streamByte k) : s.sbit k = false := by
  rw [State.sbit, State.bufByte, if_neg (Nat.not_lt.mpr h)]
  exact BitVec.getLsbD_zero

/-- The stream bit `LIMIT` is not backed by the buffer: its byte is the last one of the first word that is not whole (R24,
R53). -/
theorem len_le_streamByte_limit (s : State) : s.len ≤ streamByte s.limit := by
  unfold State.limit streamByte
  omega

/-- The packed bytes hold every bit of the run (R84). -/
theorem streamByte_lt_packBytes {bits : Bits} {k : Nat} (h : k < bits.length) : streamByte k < (packBytes bits).length := by
  rw [packBytes_length]
  unfold streamByte
  omega

end Sys2Proof.Machine

namespace Sys2Proof.Proofs

open Sys2Proof Sys2Proof.Machine

/-- Settles O12: a read inside the buffer, the zeros past it, and `LIMIT` as the first bit of a word that is not whole. -/
theorem streamBitsComeFromTheBufferThenZeros : Obligations.StreamBitsComeFromTheBufferThenZeros := fun s _ =>
  ⟨sbit_of_lt, sbit_of_le, streamByte_lt_len, len_le_streamByte_limit s⟩

/-- Settles O9: a bit inside the packed bytes is the bit that the packing put there, which is 0 past the end of the run, and
no bit of the run is past the packed bytes. -/
theorem packedBytesDeliverTheStream : Obligations.PackedBytesDeliverTheStream := by
  intro c draws bits k
  by_cases h : streamByte k < (packBytes bits).length
  · calc (atStart c draws (packBytes bits)).sbit k
        = (packByte bits (streamByte k)).getLsbD (7 - k % 8) := by
          rw [sbit_of_lt h, read_atStart_buf, packBytes_getD h]
      _ = bitAt bits (streamIndex (streamByte k) (k % 8)) := getLsbD_packByte bits _ (Nat.mod_lt k (by decide))
      _ = bitAt bits k := by rw [streamIndex_streamByte]
  · rw [sbit_of_le (Nat.not_lt.mp h), bitAt_of_le (Nat.not_lt.mp (mt streamByte_lt_packBytes h))]

end Sys2Proof.Proofs
end

section
/-! SUPPORT. What the raster keeps: the store of a macroblock leaves every byte outside its pixels, and no other element of a
slice stores anything (spec 20_memory.md R57; 44_macroblock_csc.md R190). -/

namespace Sys2Proof.Machine

open Sys2Proof

/-- An address outside the pixels of macroblock `(S, M)` (R190). -/
def OutsideMacroblock (s : State) (a : Nat) : Prop := ∀ j : Fin 256, a < sampleAddress s j ∨ sampleAddress s j + 2 < a

/-- A raster byte is decided by the raster and the size of the picture (R58). -/
theorem rasterByte_congr {s t : State} (hcfg : t.cfg = s.cfg) (hwidth : t.width = s.width) (hheight : t.height = s.height)
    (hraster : t.raster = s.raster) (a : Nat) : t.rasterByte a = s.rasterByte a := by
  rw [State.rasterByte, hraster, State.rasterSize, hcfg, hwidth, hheight]
  rfl

/-- Outside its pixels the store of a macroblock leaves the raster as it is (R57, R190). -/
theorem storeMacroblock_rasterByte_other {s t : State} (hr : s.RasterInv) (h : storeMacroblock s = some t) {a : Nat}
    (ha : OutsideMacroblock s a) : t.rasterByte a = s.rasterByte a := by
  obtain ⟨m, hm, -, rfl⟩ := storeMacroblock_eq_some h
  obtain ⟨hwf, -⟩ := hr m hm
  simp only [State.rasterByte, hm, read_storeSamples_other s (List.finRange 256) hwf fun j _ => ha j]
  rfl

/-- The store of a macroblock changes the raster and nothing else (R190). -/
theorem storeMacroblock_eq_raster {s t : State} (h : storeMacroblock s = some t) : t = { s with raster := t.raster } := by
  obtain ⟨m, -, -, rfl⟩ := storeMacroblock_eq_some h
  rfl

/-! ### Elements that store nothing -/

/-- The raster is as before. -/
def KeepsRaster (s t : State) : Prop := t.raster = s.raster

theorem KeepsRaster.refl (s : State) : KeepsRaster s s := rfl

theorem KeepsRaster.skipc {s u : State} (h : KeepsRaster s u) {n : Nat} {k : Err} {rest : State → Out}
    (hrest : KeepsRaster s (bcSkip n u) → Yields (KeepsRaster s) (rest (bcSkip n u))) :
    Yields (KeepsRaster s) (skipc n k u rest) :=
  yields_skipc h (hrest h)

/-- An element that neither reads the picture header nor can end a block leaves the raster (R57). -/
theorem exec_keepsRaster {i : Instr} (s : State) (hpic : i.slot ≠ .picHdr) (hdc : i.slot ≠ .dc) (heob : i ≠ .eob) :
    Yields (KeepsRaster s) (exec i s) := by
  have start := KeepsRaster.refl s
  cases i using Instr.family_cases with
  | alignPad pad => exact yields_next (afterAlign_raster (bcAlign s))
  | picHdr => exact absurd rfl hpic
  | gobHdr m d =>
    show Yields (KeepsRaster s) (execGobHdr m d s)
    exact start.skipc fun h => h.skipc fun h' => yields_next h'
  | eosMark =>
    show Yields (KeepsRaster s) (execEosMark s)
    exact start.skipc fun h => yields_next h
  | trailer m =>
    show Yields (KeepsRaster s) (execTrailer m s)
    refine start.skipc fun h => yields_next ?_
    split
    · exact h
    · exact h
  | badMark m =>
    show Yields (KeepsRaster s) (execBadMark m s)
    exact start.skipc fun h => yields_next h
  | mbHdrC =>
    show Yields (KeepsRaster s) (execMbHdrC s)
    exact start.skipc fun h => yields_next h
  | mbHdr flags =>
    show Yields (KeepsRaster s) (execMbHdr flags s)
    exact start.skipc fun h => h.skipc fun h' => yields_next h'
  | mbHdrR flags rsv =>
    show Yields (KeepsRaster s) (execMbHdrR flags rsv s)
    refine start.skipc fun h => h.skipc fun h' => ?_
    have hdesc : KeepsRaster s (acceptDesc (descOf true flags) (bcSkip 8 (bcSkip 1 s))) := h'
    exact hdesc.skipc fun h'' => yields_next h''
  | mbHdrInvalid low =>
    show Yields (KeepsRaster s) (execMbHdrInvalid low s)
    exact start.skipc fun h => h.skipc fun h' => yields_next h'
  | dc => exact absurd rfl hdc
  | run i n r hi =>
    rw [exec_of_runOf hi]
    exact start.skipc fun h => yields_next h
  | level i n v hi =>
    rw [exec_of_levelOf hi]
    refine start.skipc fun h => ?_
    split
    · exact yields_next h
    · exact yields_next h
  | eob => exact absurd rfl heob
  | runReserved | levelReserved => exact yields_next start

/-! ### The end of a block -/

/-- What an element may do to the raster: outside the pixels of the macroblock nothing, and before block 5 nothing at all
(R57, R184, R190). -/
structure StoresInMacroblock (s t : State) : Prop where
  other : ∀ a, OutsideMacroblock s a → t.rasterByte a = s.rasterByte a
  beforeLast : s.blockIdx ≠ 5 → t.raster = s.raster

theorem StoresInMacroblock.refl (s : State) : StoresInMacroblock s s := ⟨fun _ _ => rfl, fun _ => rfl⟩

theorem yields_storesInMacroblock_endBlock {s : State} (hr : s.RasterInv) :
    Yields (StoresInMacroblock s) (endBlock s) := by
  by_cases hb : s.blockIdx.val < 5
  · rw [endBlock_of_lt hb]
    exact yields_next { StoresInMacroblock.refl s with }
  · rw [endBlock_of_last hb]
    have hlast : s.blockIdx = 5 := Fin.ext (show s.blockIdx.val = 5 by omega)
    rcases endMacroblock_cases (idct s.blockIdx s) with ⟨-, e⟩ | ⟨t, ht, e⟩
    · rw [e]
      rintro _ ⟨⟩
    · rw [e]
      refine yields_next ⟨fun a ha => ?_, fun h => absurd hlast h⟩
      calc (nextMacroblock t).rasterByte a
          = t.rasterByte a := rasterByte_congr (by simp) (by simp) (by simp) (by simp) a
        _ = (idct s.blockIdx s).rasterByte a := storeMacroblock_rasterByte_other (s := idct s.blockIdx s) hr ht ha

/-- DC leaves the raster where the AC loop follows, and ends a flat block (R122, R123). -/
theorem yields_storesInMacroblock_dc {s : State} (hr : s.RasterInv) (v : BitVec 10) :
    Yields (StoresInMacroblock s) (execDc v s) := by
  have start := StoresInMacroblock.refl s
  refine yields_skipc { start with } ?_
  dsimp only
  split
  · exact yields_next { start with }
  · intro t ht
    exact { yields_storesInMacroblock_endBlock (s := deqDc v (bcSkip 10 (clearCoef s))) hr t ht with }

theorem yields_storesInMacroblock_eob {s : State} (hr : s.RasterInv) : Yields (StoresInMacroblock s) (execEob s) := by
  refine yields_skipc { StoresInMacroblock.refl s with } fun t ht => ?_
  exact { yields_storesInMacroblock_endBlock (s := bcSkip _ s) hr t ht with }

/-- Every element but PICHDR stores at most the pixels of its macroblock (R57, R190). -/
theorem exec_storesInMacroblock {i : Instr} {s : State} (hpic : i.slot ≠ .picHdr) (hr : s.RasterInv) :
    Yields (StoresInMacroblock s) (exec i s) := by
  have keeps : i.slot ≠ .dc → i ≠ .eob → Yields (StoresInMacroblock s) (exec i s) := by
    intro hdc heob t ht
    have hraster := exec_keepsRaster s hpic hdc heob t ht
    have f := exec_frame i s t ht
    obtain ⟨-, -, hcfg, -⟩ := f.input
    obtain ⟨-, -, hwidth, hheight, -⟩ := f.header hpic
    exact ⟨fun a _ => rasterByte_congr hcfg hwidth hheight hraster a, fun _ => hraster⟩
  by_cases heob : i = .eob
  · subst heob
    exact yields_storesInMacroblock_eob hr
  · cases i using Instr.family_cases with
    | dc v => exact yields_storesInMacroblock_dc hr v
    | run i n r hi => exact keeps (by simp [slot_of_runOf hi]) heob
    | level i n v hi => exact keeps (by simp [slot_of_levelOf hi]) heob
    | _ => exact keeps nofun heob

end Sys2Proof.Machine

namespace Sys2Proof.Proofs

open Sys2Proof Sys2Proof.Machine

/-- Settles O46: the pixels that the store holds, the bytes outside them, and the rest of the state. -/
theorem macroblockStoreWritesItsPixelsOnly : Obligations.MacroblockStoreWritesItsPixelsOnly := fun _ _ hmap hr h =>
  ⟨storeMacroblock_rasterByte hmap hr h, fun _ ha => storeMacroblock_rasterByte_other hr h ha, storeMacroblock_eq_raster h⟩

/-- Settles O29: every element stores at most the pixels of its macroblock, and one that ends no block stores nothing. -/
theorem rasterChangesOnlyInsideTheMacroblock : Obligations.RasterChangesOnlyInsideTheMacroblock := by
  intro i s t hpic hr ht
  obtain ⟨hother, hbefore⟩ := exec_storesInMacroblock hpic hr t ht
  refine ⟨hother, ?_⟩
  rintro (⟨hdc, heob⟩ | hblock)
  · exact exec_keepsRaster s hpic hdc heob t ht
  · exact hbefore hblock

end Sys2Proof.Proofs
end

section
/-! SUPPORT. The control invariant at every step: what holds all through each phase of a running call, and that every
element, where the invariant lets it stand, answers a next state with the invariant (spec 20_memory.md R59; 40_bit_cursor.md
R109; 45_slice_frame_sequencer.md R211; 60_exceptions.md R253). -/

namespace Sys2Proof.Machine

open Sys2Proof

/-! ### The phases of a running call -/

/-- What holds of a running call in every phase, wherever the cursor stands (R22, R27, R34, R59). -/
structure State.MidCall (s : State) : Prop where
  started : s.started = true
  input : s.InputInv
  raster : s.RasterInv
  noError : s.err = .noError
  failPos : s.failPos = 0
  earlyEos : s.earlyEos = false

/-- `ReadHeader`: no raster has been allocated (R44, R216). -/
structure State.InHeader (s : State) : Prop extends State.MidCall s where
  noRaster : s.raster = none

/-- `DecodeSlices`: the header has been read, and `S` and `M` are inside the picture (R217, R221). -/
structure State.InSlices (s : State) : Prop extends State.MidCall s where
  header : s.HeaderInv
  seq : s.seq = .decodeSlices
  slice : s.sliceIdx < s.slices
  column : s.mbIdx < s.mbw

/-- `ReadTrailer`: the last macroblock has been stored (R217, R222). -/
structure State.InTrailer (s : State) : Prop extends State.MidCall s where
  header : s.HeaderInv
  seq : s.seq = .readTrailer
  lastSlice : s.sliceIdx + 1 = s.slices
  lastColumn : s.mbIdx + 1 = s.mbw

/-- The phases in which a running call can be, each with its cursor and its grammar positions (R70, R211). -/
theorem State.Inv.phase_cases {s : State} (h : s.Inv) (hrun : s.running = true) :
    (s.InHeader ∧ s.seq = .readHeader ∧ s.pos = 0 ∧ (s.slot = .alignPad ∨ s.slot = .picHdr)) ∨
    (s.InSlices ∧ s.pos ≤ s.limit ∧ s.SliceSlotInv) ∨
    (s.InTrailer ∧ s.pos ≤ s.limit ∧ (s.slot = .alignPad ∨ s.slot = .trailer ∧ s.pos % 8 = 0)) := by
  obtain ⟨hstarted, hdone, hfailed⟩ := (running_iff s).mp hrun
  obtain ⟨hinput, hraster, hphase, -⟩ := h
  unfold State.PhaseInv at hphase
  cases hs : s.seq
  case readHeader =>
    rw [hs] at hphase
    obtain ⟨hpos, hslot, hnone, herr, hfail, heos⟩ := hphase
    exact .inl ⟨⟨⟨hstarted, hinput, hraster, herr, hfail, heos⟩, hnone⟩, rfl, hpos, hslot⟩
  case decodeSlices =>
    rw [hs] at hphase
    obtain ⟨hheader, ⟨herr, hfail, heos⟩, hpos, hslice, hcol, hslot⟩ := hphase
    exact .inr (.inl ⟨⟨⟨hstarted, hinput, hraster, herr, hfail, heos⟩, hheader, hs, hslice, hcol⟩, hpos, hslot⟩)
  case readTrailer =>
    rw [hs] at hphase
    obtain ⟨hheader, ⟨herr, hfail, heos⟩, hpos, hslice, hcol, hslot⟩ := hphase
    exact .inr (.inr ⟨⟨⟨hstarted, hinput, hraster, herr, hfail, heos⟩, hheader, hs, hslice, hcol⟩, hpos, hslot⟩)
  case done => exact absurd hs hdone
  case failed => exact absurd hs hfailed

/-- PICHDR is read in `ReadHeader` only (R70). -/
theorem State.Inv.inHeader {s : State} (h : s.Inv) (hrun : s.running = true) (hslot : s.slot = .picHdr) : s.InHeader := by
  rcases h.phase_cases hrun with ⟨hp, -⟩ | ⟨-, -, hs⟩ | ⟨-, -, hs⟩
  · exact hp
  · simp [State.SliceSlotInv, hslot] at hs
  · simp [hslot] at hs

/-- TRAILER is read in `ReadTrailer` only (R70). -/
theorem State.Inv.inTrailer {s : State} (h : s.Inv) (hrun : s.running = true) (hslot : s.slot = .trailer) :
    s.InTrailer := by
  rcases h.phase_cases hrun with ⟨-, -, -, hs⟩ | ⟨-, -, hs⟩ | ⟨hp, -⟩
  · simp [hslot] at hs
  · simp [State.SliceSlotInv, hslot] at hs
  · exact hp

/-- The markers, the macroblock headers and the blocks are read in `DecodeSlices` only (R70). -/
theorem State.Inv.inSlices {s : State} {p : Slot} (h : s.Inv) (hrun : s.running = true) (hslot : s.slot = p)
    (hp : p ≠ .alignPad ∧ p ≠ .picHdr ∧ p ≠ .trailer) : s.InSlices ∧ s.SliceSlotInv := by
  subst hslot
  obtain ⟨hpad, hpic, htrailer⟩ := hp
  rcases h.phase_cases hrun with ⟨-, -, -, hs⟩ | ⟨hp, -, hs⟩ | ⟨-, -, hs⟩
  · exact absurd hs (not_or.mpr ⟨hpad, hpic⟩)
  · exact ⟨hp, hs⟩
  · exact absurd hs (not_or.mpr ⟨hpad, fun h => htrailer h.1⟩)

/-! ### The states in which an element can end -/

theorem startInv_of_started {s : State} (h : s.started = true) : s.StartInv := fun hs => absurd (h.symm.trans hs) nofun

theorem State.MidCall.bcSkip {s : State} (h : s.MidCall) (n : Nat) : (bcSkip n s).MidCall := { h with }

/-- A hard error ends the call in `Failed` (R250). -/
theorem State.MidCall.inv_raise {s : State} (h : s.MidCall) {k : Err} (hk : k.hard = true) : (raise k s).Inv :=
  ⟨h.input, h.raster, ⟨hk, rfl, h.earlyEos⟩, startInv_of_started h.started⟩

/-- A call ends in `Done` with its header, and with no error but the soft one (R219, R222, R223). -/
theorem State.inv_finish {s : State} (hstarted : s.started = true) (hinput : s.InputInv) (hraster : s.RasterInv)
    (hheader : s.HeaderInv) (hpos : s.pos ≤ s.limit)
    (herr : s.err = .noError ∧ s.failPos = 0 ∨ s.err = .badTrailer ∧ s.failPos = s.pos ∧ s.earlyEos = false) :
    (finish s).Inv :=
  ⟨hinput, hraster, ⟨hheader, hpos, herr⟩, startInv_of_started hstarted⟩

theorem State.InHeader.inv {s : State} (h : s.InHeader) (hseq : s.seq = .readHeader) (hpos : s.pos = 0)
    (hslot : s.slot = .alignPad ∨ s.slot = .picHdr) : s.Inv := by
  refine ⟨h.input, h.raster, ?_, startInv_of_started h.started⟩
  unfold State.PhaseInv
  rw [hseq]
  exact ⟨hpos, hslot, h.noRaster, h.noError, h.failPos, h.earlyEos⟩

theorem State.InSlices.inv {s : State} (h : s.InSlices) (hpos : s.pos ≤ s.limit) (hslot : s.SliceSlotInv) : s.Inv := by
  refine ⟨h.input, h.raster, ?_, startInv_of_started h.started⟩
  unfold State.PhaseInv
  rw [h.seq]
  exact ⟨h.header, ⟨h.noError, h.failPos, h.earlyEos⟩, hpos, h.slice, h.column, hslot⟩

theorem State.InTrailer.inv {s : State} (h : s.InTrailer) (hpos : s.pos ≤ s.limit)
    (hslot : s.slot = .alignPad ∨ s.slot = .trailer ∧ s.pos % 8 = 0) : s.Inv := by
  refine ⟨h.input, h.raster, ?_, startInv_of_started h.started⟩
  unfold State.PhaseInv
  rw [h.seq]
  exact ⟨h.header, ⟨h.noError, h.failPos, h.earlyEos⟩, hpos, h.lastSlice, h.lastColumn, hslot⟩

/-! ### What a meaning answers -/

/-- A meaning answers a next state with the control invariant: no fault and no refusal. -/
def AnswersInv (o : Out) : Prop := ∃ t, o = .next t ∧ t.Inv

theorem answersInv_next {t : State} (h : t.Inv) : AnswersInv (.next t) := ⟨t, rfl, h⟩

namespace State.MidCall

variable {s : State}

theorem fails (h : s.MidCall) {k : Err} (hk : k.hard = true) : AnswersInv (.next (raise k s)) :=
  answersInv_next (h.inv_raise hk)

/-- A field read with the truncation test: a hard error, or the rest of the element inside `LIMIT` (R109, R111). -/
theorem skipc (h : s.MidCall) {n : Nat} {k : Err} {rest : State → Out} (hk : k.hard = true)
    (hrest : (Machine.bcSkip n s).pos ≤ s.limit → AnswersInv (rest (Machine.bcSkip n s))) :
    AnswersInv (skipc n k s rest) := by
  rcases skipc_cases n k s rest with ⟨-, e⟩ | ⟨hle, e⟩
  · exact e ▸ (h.bcSkip n).fails hk
  · exact e ▸ hrest hle

end State.MidCall

/-! ### ReadHeader -/

namespace State.InHeader

variable {s : State}

theorem bcSkip (h : s.InHeader) (n : Nat) : (bcSkip n s).InHeader := { h with }

/-- Without a raster the header registers are free to change. -/
theorem setHeader (h : s.InHeader) (fmt : BitVec 2) (scale : BitVec 3) (width height : Nat) :
    { s with fmt := fmt, scale := scale, width := width, height := height }.InHeader :=
  { h with
    raster := fun m hm => by
      rw [h.noRaster] at hm
      cases hm }

/-- A header of a picture that is not empty leads to the first slice, with a raster of `RASTER_FILL` bytes (R215 to
R217). -/
theorem enterSlices (h : s.InHeader) (hfmt : s.fmt ≠ 0) (hscale : s.scale ≠ 0)
    (hwidth : s.width = widthOf s.cfg s.fmt s.scale) (hheight : s.height = heightOf s.cfg s.fmt s.scale)
    (hdims : dimsOk s.cfg s.width s.height = true) : (enterSlices s).InSlices := by
  have hsize := hdims
  simp only [dimsOk, Bool.and_eq_true, decide_eq_true_eq, beq_iff_eq] at hsize
  obtain ⟨⟨⟨⟨⟨hw0, hh0⟩, hw16⟩, hh16⟩, -⟩, -⟩ := hsize
  exact
    { h with
      raster := fun m hm => by
        cases hm
        exact ⟨⟨.nil, nofun⟩, nofun⟩
      header := ⟨hfmt, hscale, hwidth, hheight, hdims, rfl, rfl, rfl⟩
      seq := rfl
      slice := show 0 < s.height / 16 by omega
      column := show 0 < s.width / 16 by omega }

/-- PICHDR (R212 to R216). -/
theorem picHdr (h : s.InHeader) (psc : Marker) (fmt : BitVec 2) (scale : BitVec 3) (d : Bits) :
    AnswersInv (execPicHdr psc fmt scale d s) := by
  refine h.skipc rfl fun _ => ?_
  have hpsc := h.bcSkip 22
  split
  · exact hpsc.fails rfl
  refine hpsc.skipc rfl fun _ => ?_
  have hfmt := (hpsc.bcSkip 2).setHeader fmt s.scale s.width s.height
  split
  · exact hfmt.fails rfl
  next hfmt0 =>
  refine hfmt.skipc rfl fun _ => ?_
  have hscale := (hfmt.bcSkip 3).setHeader fmt scale s.width s.height
  split
  · exact hscale.fails rfl
  next hscale0 =>
  have hsize := hscale.setHeader fmt scale (widthOf s.cfg fmt scale) (heightOf s.cfg fmt scale)
  refine hsize.skipc rfl fun hpos => ?_
  have hall := hsize.bcSkip s.cfg.hdrDiscardBits
  split
  · exact hall.fails rfl
  next hdims =>
  exact answersInv_next ((hall.enterSlices hfmt0 hscale0 rfl rfl (by simpa using hdims)).inv hpos trivial)

end State.InHeader

/-! ### DecodeSlices -/

namespace State.InSlices

variable {s : State}

theorem bcSkip (h : s.InSlices) (n : Nat) : (bcSkip n s).InSlices := { h with }

/-- The current macroblock is inside the raster (R59, R190). -/
theorem footprintInside (h : s.InSlices) : footprintInside s = true := by
  obtain ⟨-, -, -, -, -, hslices, hmbw, -⟩ := h.header
  have hslice := h.slice
  have hcolumn := h.column
  simp only [Machine.footprintInside, Bool.and_eq_true, decide_eq_true_eq]
  omega

/-- The raster may take any bytes that stay inside it (R59). -/
theorem setRaster (h : s.InSlices) {m : Memory} (hm : Memory.wf s.cfg.rasterFill m ∧ Memory.below s.rasterSize m) :
    { s with raster := some m }.InSlices := by
  obtain ⟨hfmt, hscale, hwidth, hheight, hdims, hslices, hmbw, -⟩ := h.header
  exact
    { h with
      raster := fun m' hm' => by
        cases hm'
        exact hm
      header := ⟨hfmt, hscale, hwidth, hheight, hdims, hslices, hmbw, rfl⟩ }

/-- The current macroblock can be stored, and its bytes stay inside the raster (R59, R190). -/
theorem storeMacroblock (h : s.InSlices) :
    ∃ m, storeMacroblock s = some { s with raster := some m } ∧ { s with raster := some m }.InSlices := by
  obtain ⟨-, -, -, -, -, -, -, hsome⟩ := h.header
  obtain ⟨m, hm⟩ := Option.isSome_iff_exists.mp hsome
  obtain ⟨hwf, hbelow⟩ := h.raster m hm
  exact ⟨_, storeMacroblock_of_inside hm h.footprintInside,
    h.setRaster ⟨storeSamples_wf s _ hwf, storeSamples_below s _ h.footprintInside hbelow⟩⟩

/-- After a macroblock the call goes on inside the picture, or to the trailer (R217, R221). -/
theorem inv_nextMacroblock (h : s.InSlices) (hpos : s.pos ≤ s.limit) : (nextMacroblock s).Inv := by
  have hslice := h.slice
  have hcolumn := h.column
  rcases nextMacroblock_cases s with ⟨hm, e⟩ | ⟨-, hs, e⟩ | ⟨hm, hs, e⟩
  · rw [e]
    exact inv { h with column := hm } hpos trivial
  · rw [e]
    exact inv { h with slice := hs } hpos (Nat.succ_pos s.sliceIdx)
  · rw [e]
    exact InTrailer.inv
      { h with seq := rfl, lastSlice := Nat.le_antisymm hslice hs, lastColumn := Nat.le_antisymm hcolumn hm } hpos (.inl rfl)

/-- The end of a block: the next block, or the store of the macroblock and what follows it (R180, R184). -/
theorem endBlock (h : s.InSlices) (hpos : s.pos ≤ s.limit) (hdesc : s.desc.getLsbD 7 = true) :
    AnswersInv (endBlock s) := by
  by_cases hb : s.blockIdx.val < 5
  · rw [endBlock_of_lt hb]
    exact answersInv_next (inv { h with } hpos hdesc)
  · rw [endBlock_of_last hb]
    have hidct : (idct s.blockIdx s).InSlices := { h with }
    obtain ⟨m, hstore, hm⟩ := hidct.storeMacroblock
    simp only [endMacroblock, hstore]
    exact answersInv_next (hm.inv_nextMacroblock hpos)

theorem gobHdr (h : s.InSlices) (m : Marker) (d : Bits) : AnswersInv (execGobHdr m d s) := by
  refine h.skipc rfl fun _ => (h.bcSkip 22).skipc rfl fun hpos => answersInv_next ?_
  exact inv { h with column := (Nat.zero_le _).trans_lt h.column } hpos trivial

theorem eosMark (h : s.InSlices) : AnswersInv (execEosMark s) :=
  h.skipc rfl fun hpos => answersInv_next
    (inv_finish h.started h.input h.raster h.header hpos (.inl ⟨h.noError, h.failPos⟩))

theorem badMark (h : s.InSlices) (m : Marker) : AnswersInv (execBadMark m s) :=
  h.skipc rfl fun _ => (h.bcSkip 22).fails rfl

theorem mbHdrC (h : s.InSlices) : AnswersInv (execMbHdrC s) := h.skipc rfl fun _ => (h.bcSkip 1).fails rfl

/-- A descriptor with bit 7 set opens the block loop (R182, R184). -/
theorem enterBlocks (h : s.InSlices) (hpos : s.pos ≤ s.limit) (hdesc : s.desc.getLsbD 7 = true) :
    AnswersInv (.next (enterBlocks s)) :=
  answersInv_next (inv { h with } hpos hdesc)

theorem acceptDesc (h : s.InSlices) (d : BitVec 8) : (acceptDesc d s).InSlices := { h with }

theorem mbHdr (h : s.InSlices) (flags : BitVec 6) : AnswersInv (execMbHdr flags s) := by
  refine h.skipc rfl fun _ => (h.bcSkip 1).skipc rfl fun hpos => ?_
  exact (((h.bcSkip 1).bcSkip 8).acceptDesc _).enterBlocks hpos (descOf_bits false flags).1

theorem mbHdrR (h : s.InSlices) (flags : BitVec 6) (rsv : BitVec 2) : AnswersInv (execMbHdrR flags rsv s) := by
  refine h.skipc rfl fun _ => (h.bcSkip 1).skipc rfl fun _ => ?_
  have hdesc := ((h.bcSkip 1).bcSkip 8).acceptDesc (descOf true flags)
  exact hdesc.skipc rfl fun hpos => (hdesc.bcSkip 2).enterBlocks hpos (descOf_bits true flags).1

theorem mbHdrInvalid (h : s.InSlices) (low : BitVec 7) : AnswersInv (execMbHdrInvalid low s) := by
  refine h.skipc rfl fun _ => (h.bcSkip 1).skipc rfl fun _ => ?_
  exact (((h.bcSkip 1).bcSkip 8).acceptDesc _).fails rfl

/-- DC: the AC loop from scan index 1, or the end of the block (R121 to R123). -/
theorem dc (h : s.InSlices) (hdesc : s.desc.getLsbD 7 = true) (v : BitVec 10) : AnswersInv (execDc v s) := by
  have hclear : (clearCoef s).InSlices := { h with }
  refine hclear.skipc rfl fun hpos => ?_
  have hdeq : (deqDc v (Machine.bcSkip 10 (clearCoef s))).InSlices := { h with }
  dsimp only
  split
  next hac => exact answersInv_next (inv { hdeq with } hpos ⟨hdesc, hac, le_refl 1, show 1 ≤ 64 by omega⟩)
  next => exact hdeq.endBlock hpos hdesc

/-- A run of at most 63 leads from a scan index up to 64 to one up to 127 (R124, R128). -/
theorem runSymbol (h : s.InSlices) (hslot : s.slot = .run) (hs : s.SliceSlotInv) {r : Nat} (hr : r ≤ 63) :
    AnswersInv (runSymbol r s) := by
  rw [State.SliceSlotInv, hslot] at hs
  obtain ⟨hdesc, hac, hlo, hhi⟩ := hs
  exact h.skipc rfl fun hpos => answersInv_next
    (inv { h with } hpos ⟨hdesc, hac, Nat.le_add_right_of_le hlo, Nat.add_le_add hhi hr⟩)

/-- A level past scan index 63 fails; else the scan index moves to at most 64 (R127, R128). -/
theorem levelSymbol (h : s.InSlices) (hslot : s.slot = .level) (hs : s.SliceSlotInv) (sg : BitVec 1) (m : Nat) :
    AnswersInv (levelSymbol sg m s) := by
  rw [State.SliceSlotInv, hslot] at hs
  obtain ⟨hdesc, hac, -, -⟩ := hs
  refine h.skipc rfl fun hpos => ?_
  split
  next hlt => exact answersInv_next (inv { h with } hpos ⟨hdesc, hac, Nat.le_add_left 1 s.idx, hlt⟩)
  next => exact (h.bcSkip _).fails rfl

theorem eob (h : s.InSlices) (hslot : s.slot = .level) (hs : s.SliceSlotInv) : AnswersInv (execEob s) := by
  rw [State.SliceSlotInv, hslot] at hs
  obtain ⟨hdesc, -⟩ := hs
  exact h.skipc rfl fun hpos => (h.bcSkip _).endBlock hpos hdesc

end State.InSlices

/-! ### ReadTrailer, and the padding before each phase's marker -/

/-- TRAILER: `Done`, with the soft error at the position after the marker where it is wrong (R222, R223). -/
theorem State.InTrailer.trailer {s : State} (h : s.InTrailer) (m : Marker) : AnswersInv (execTrailer m s) := by
  refine h.skipc rfl fun hpos => answersInv_next ?_
  split
  · exact inv_finish h.started h.input h.raster h.header hpos (.inr ⟨rfl, rfl, h.earlyEos⟩)
  · exact inv_finish h.started h.input h.raster h.header hpos (.inl ⟨h.noError, h.failPos⟩)

/-- ALIGNPAD: the cursor stands at a byte boundary, at 0 before the picture header, and the marker of the phase comes next
(R55, R70, R105). -/
theorem State.Inv.alignPad {s : State} (h : s.Inv) (hrun : s.running = true) (hslot : s.slot = .alignPad) (pad : Bits) :
    AnswersInv (execAlignPad pad s) := by
  refine answersInv_next ?_
  have haligned : (bcAlign s).pos % 8 = 0 := padLength_aligned s.pos
  rcases h.phase_cases hrun with ⟨hp, hseq, hpos, -⟩ | ⟨hp, hpos, hs⟩ | ⟨hp, hpos, -⟩
  · have e : afterAlign (bcAlign s) = { bcAlign s with slot := .picHdr } := by simp [afterAlign, hseq]
    rw [e]
    exact InHeader.inv { hp with } hseq (by simp [hpos, padLength]) (.inr rfl)
  · have e : afterAlign (bcAlign s) = { bcAlign s with slot := .sliceHdr } := by simp [afterAlign, hp.seq]
    rw [State.SliceSlotInv, hslot] at hs
    rw [e]
    exact InSlices.inv { hp with } (align_le_limit hpos) ⟨hs, haligned⟩
  · have e : afterAlign (bcAlign s) = { bcAlign s with slot := .trailer } := by simp [afterAlign, hp.seq]
    rw [e]
    exact InTrailer.inv { hp with } (align_le_limit hpos) (.inr ⟨rfl, haligned⟩)

/-! ### Every element -/

/-- Every element answers a next state with the control invariant, at its grammar position in a running call. -/
theorem State.Inv.exec {i : Instr} {s : State} (h : s.Inv) (hrun : s.running = true) (hslot : i.slot = s.slot) :
    AnswersInv (exec i s) := by
  have slices : i.slot ≠ .alignPad → i.slot ≠ .picHdr → i.slot ≠ .trailer → s.InSlices ∧ s.SliceSlotInv :=
    fun h1 h2 h3 => h.inSlices hrun hslot.symm ⟨h1, h2, h3⟩
  cases i using Instr.family_cases with
  | alignPad pad => exact h.alignPad hrun hslot.symm pad
  | picHdr psc fmt scale d => exact (h.inHeader hrun hslot.symm).picHdr psc fmt scale d
  | trailer m => exact (h.inTrailer hrun hslot.symm).trailer m
  | gobHdr m d => exact (slices nofun nofun nofun).1.gobHdr m d
  | eosMark => exact (slices nofun nofun nofun).1.eosMark
  | badMark m => exact (slices nofun nofun nofun).1.badMark m
  | mbHdrC => exact (slices nofun nofun nofun).1.mbHdrC
  | mbHdr flags => exact (slices nofun nofun nofun).1.mbHdr flags
  | mbHdrR flags rsv => exact (slices nofun nofun nofun).1.mbHdrR flags rsv
  | mbHdrInvalid low => exact (slices nofun nofun nofun).1.mbHdrInvalid low
  | dc v =>
    obtain ⟨hp, hs⟩ := slices nofun nofun nofun
    rw [State.SliceSlotInv, ← hslot] at hs
    exact hp.dc hs v
  | run i n r hi =>
    have hrunSlot := slot_of_runOf hi
    obtain ⟨hp, hs⟩ := slices (by simp [hrunSlot]) (by simp [hrunSlot]) (by simp [hrunSlot])
    rw [exec_of_runOf hi]
    exact hp.runSymbol (hslot.symm.trans hrunSlot) hs (asmRun_of_runOf hi).1
  | level i n v hi =>
    have hlevelSlot := slot_of_levelOf hi
    obtain ⟨hp, hs⟩ := slices (by simp [hlevelSlot]) (by simp [hlevelSlot]) (by simp [hlevelSlot])
    rw [exec_of_levelOf hi]
    exact hp.levelSymbol (hslot.symm.trans hlevelSlot) hs _ _
  | eob =>
    obtain ⟨hp, hs⟩ := slices nofun nofun nofun
    exact hp.eob hslot.symm hs
  | runReserved | levelReserved => exact (slices nofun nofun nofun).1.fails rfl

end Sys2Proof.Machine

namespace Sys2Proof.Proofs

open Sys2Proof Sys2Proof.Machine

/-- Settles O18: the element at the cursor is one of the grammar position, and the phase of the call lets each of those run;
an ended call stays as it is. -/
theorem stepNeverFaultsAndKeepsTheInvariant : Obligations.StepNeverFaultsAndKeepsTheInvariant := by
  intro s hinv
  by_cases hrun : s.running = true
  · rw [step_of_running hrun]
    exact hinv.exec hrun (fetch_slot s)
  · exact ⟨s, step_of_not_running (by simpa using hrun), hinv⟩

end Sys2Proof.Proofs
end

section
/-! SUPPORT. Every bit pattern has a well-formed element: a symbol that a window holds has a code, and where a window is
reserved there is a reserved pattern (spec 30_encoding.md R70, R81; 10_state.md R39). -/

namespace Sys2Proof

/-! ### Which symbols have a code -/

section
variable {α : Type}

theorem CodeTable.codeOf_isSome {len : α → Nat} {p : α → Bool} {t : CodeTable α} {bs : Bits} {e : α}
    (hm : (bs, e) ∈ t.codes) (hp : p e = true) : (t.codeOf len p).isSome = true := by
  rw [CodeTable.codeOf, Option.isSome_map, List.find?_isSome]
  exact ⟨(bs, e), hm, hp⟩

theorem CodeTable.reservedPattern_branch_isSome (n : Nat) (zero one : CodeTable α) :
    (CodeTable.reservedPattern (n + 1) (.branch zero one)).isSome =
      ((CodeTable.reservedPattern n zero).isSome || (CodeTable.reservedPattern n one).isSome) := by
  rw [CodeTable.reservedPattern]
  cases h : CodeTable.reservedPattern n zero <;> simp

/-- A table with a reserved window has a reserved pattern (R81). -/
theorem CodeTable.reservedPattern_isSome {n : Nat} {t : CodeTable α} {w : Bits} (h : t.lookup w = none)
    (hl : w.length = n) : (CodeTable.reservedPattern n t).isSome = true := by
  induction t generalizing n w with
  | reserved => cases n <;> rfl
  | entry e => cases h
  | branch zero one hz ho =>
    subst hl
    cases w with
    | nil => rfl
    | cons b w =>
      rw [List.length_cons, CodeTable.reservedPattern_branch_isSome, Bool.or_eq_true]
      cases b
      · exact .inl (hz h rfl)
      · exact .inr (ho h rfl)

end

theorem runCodeOf_isSome_of_runtab {c : Cfg} {w : BitVec 12} {len r : Nat} (h : runtab c w = some (len, r)) :
    (runCodeOf c.runTab r).isSome = true := by
  obtain ⟨e, he, heq⟩ := Option.map_eq_some_iff.mp h
  obtain ⟨-, rfl⟩ := Prod.mk.inj heq
  obtain ⟨bs, hm, -⟩ := CodeTable.lookup_mem_codes he
  exact CodeTable.codeOf_isSome hm (beq_self_eq_true _)

theorem levelCodeOf_isSome_of_levtab {c : Cfg} {w : BitVec 15} {len : Nat} {v : LevelSymbol}
    (h : levtab c w = some (len, v)) : (levelCodeOf c.levTab v).isSome = true := by
  obtain ⟨e, he, heq⟩ := Option.map_eq_some_iff.mp h
  obtain ⟨-, rfl⟩ := Prod.mk.inj heq
  obtain ⟨bs, hm, -⟩ := CodeTable.lookup_mem_codes he
  exact CodeTable.codeOf_isSome hm (beq_self_eq_true _)

/-! ### The element of any bits -/

theorem decodeSliceHdr_wf (c : Cfg) (bits : Bits) : (decodeSliceHdr c bits).wf c = true := by
  simp only [decodeSliceHdr]
  split_ifs with heos hmatch
  · rfl
  · simp [Instr.wf, isSliceStart, heos, hmatch]
  · simp [Instr.wf, isSliceStart, heos, hmatch]

theorem decodeMbHdr_wf (c : Cfg) (bits : Bits) : (decodeMbHdr bits).wf c = true := by
  simp only [decodeMbHdr]
  split_ifs <;> rfl

theorem decodeRun_wf (c : Cfg) (w : BitVec 12) : (decodeRun c w).wf c = true := by
  rcases h : runtab c w with _ | ⟨len, r⟩
  · rw [decodeRun_of_reserved h]
    exact CodeTable.reservedPattern_isSome (Option.map_eq_none_iff.mp h) (toBits_length w)
  · obtain ⟨-, -, h63⟩ := runtab_range h
    obtain ⟨n, hrun⟩ := runOf_asmRun h63
    rw [decodeRun_of_entry h, wf_of_runOf c hrun]
    exact runCodeOf_isSome_of_runtab h

theorem decodeLevel_wf (c : Cfg) (w : BitVec 15) : (decodeLevel c w).wf c = true := by
  rcases h : levtab c w with _ | ⟨len, v | _⟩
  · rw [decodeLevel_of_reserved h]
    exact CodeTable.reservedPattern_isSome (Option.map_eq_none_iff.mp h) (toBits_length w)
  · obtain ⟨h0, hlo, hhi⟩ := levtab_level_range h
    obtain ⟨n, hlevel⟩ := levelOf_asmLevel h0 hlo hhi
    rw [decodeLevel_of_level h, wf_of_levelOf c hlevel]
    exact levelCodeOf_isSome_of_levtab h
  · rw [decodeLevel_of_eob h]
    exact levelCodeOf_isSome_of_levtab h

/-- The decoder answers a well-formed element, whatever bits it reads (R81). -/
theorem decode_wf (c : Cfg) {p : Slot} {bits : Bits} (hpad : p = .alignPad → bits.length ≤ 7) :
    (decode c p bits).wf c = true := by
  cases p with
  | alignPad => exact decide_eq_true (hpad rfl)
  | picHdr => exact beq_iff_eq.mpr (bitRun_length bits 27 c.hdrDiscardBits)
  | trailer | dc => rfl
  | sliceHdr => exact decodeSliceHdr_wf c bits
  | mbHdr => exact decodeMbHdr_wf c bits
  | run => exact decodeRun_wf c _
  | level => exact decodeLevel_wf c _

end Sys2Proof

namespace Sys2Proof.Proofs

open Sys2Proof Sys2Proof.Machine

/-- Settles O1: each kind of element is read back from its own bits, a symbol because its table is decided code by code. -/
theorem decodeOfEncodeIsIdentity : Obligations.DecodeOfEncodeIsIdentity := fun _ _ _ hc hw hpad =>
  decode_encode hc hw hpad

/-- Settles O3: the element of each position has its fields from the bits, and a symbol or a reserved pattern from a window of
its table. -/
theorem decodedElementIsWellFormed : Obligations.DecodedElementIsWellFormed := fun c p bits hpad =>
  ⟨decode_wf c hpad, decode_slot c p bits⟩

/-- Settles O4: both elements are what the decoder reads at their position from the bits of the longer one. -/
theorem symbolCodesArePrefixFree : Obligations.SymbolCodesArePrefixFree := by
  refine ⟨ref_codesWf, fun c i j hc hi hj hslot hsym ⟨rest, hrest⟩ => ?_⟩
  have hpad : i.slot = .alignPad → rest = [] := fun h => by rcases hsym with e | e <;> exact absurd (h.symm.trans e) nofun
  calc i = decode c i.slot (encode c i ++ rest) := (decode_encode hc hi hpad).symm
    _ = decode c j.slot (encode c j ++ []) := by rw [hrest, hslot, List.append_nil]
    _ = j := decode_encode hc hj fun _ => rfl

/-- Settles O5: each word is read by the decoder of its position, under `REF`. -/
theorem writtenOutWordsDecode : Obligations.WrittenOutWordsDecode := by
  unfold Obligations.WrittenOutWordsDecode
  decide

end Sys2Proof.Proofs
end


section
/-! SUPPORT. The bits that the decoder reads are those the encoder writes: fields and runs that follow each other, and the one
code of a symbol (spec 30_encoding.md R71, R81; log 26). -/

namespace Sys2Proof

/-! ### Runs that follow each other -/

theorem bitRun_append_bitRun (bits : Bits) (off m n : Nat) :
    bitRun bits off m ++ bitRun bits (off + m) n = bitRun bits off (m + n) := by
  rw [bitRun, bitRun, bitRun, List.range_add, List.map_append, List.map_map]
  simp only [Function.comp_def, Nat.add_assoc]

theorem bitRun_prefix {bits : Bits} {n : Nat} (h : n ≤ bits.length) : bitRun bits 0 n <+: bits := by
  have htake := bitRun_append [] (bits.take n) (bits.drop n)
  rw [List.take_append_drop, List.length_take, min_eq_left h] at htake
  exact List.prefix_iff_eq_take.mpr (by rw [bitRun_length]; exact htake)

theorem bitRun_one (bits : Bits) (off : Nat) : bitRun bits off 1 = [bitAt bits off] := rfl

/-! ### The descriptor of a macroblock header -/

/-- A descriptor with bit 7 set is its bit 6 and its flags (R77). -/
theorem descOf_extract {desc : BitVec 8} {ext : Bool} (h7 : desc.getLsbD 7 = true) (h6 : desc.getLsbD 6 = ext) :
    Machine.descOf ext (desc.extractLsb' 0 6) = desc := by
  revert desc ext
  decide

/-- A descriptor with bit 7 clear is its other bits (R77). -/
theorem descInvalid_extract {desc : BitVec 8} (h : desc.getLsbD 7 = false) :
    Machine.descInvalid (desc.extractLsb' 0 7) = desc := by
  revert desc
  decide

/-! ### The one code of a symbol -/

section
variable {α β : Type} [DecidableEq β] {len : α → Nat} {symbol : α → β} {p : α → Bool} {t : CodeTable α}

/-- Where each symbol has one code, the bits that lead to an entry are the code of its symbol. -/
theorem CodeTable.codeOf_of_oneCode {bs : Bits} {e : α} (h : t.oneCode len symbol = true) (hm : (bs, e) ∈ t.codes)
    (hp : ∀ e', p e' = true ↔ symbol e' = symbol e) : t.codeOf len p = some bs ∧ bs.length = len e := by
  simp only [CodeTable.oneCode, Bool.and_eq_true, List.all_eq_true, beq_iff_eq, decide_eq_true_iff] at h
  obtain ⟨hlen, hnodup⟩ := h
  have hfound : ∃ x ∈ t.codes, p x.2 = true := ⟨(bs, e), hm, (hp e).mpr rfl⟩
  obtain ⟨x, hx⟩ := Option.isSome_iff_exists.mp (List.find?_isSome.mpr hfound)
  have hsame : x = (bs, e) :=
    List.inj_on_of_nodup_map hnodup (List.mem_of_find?_eq_some hx) hm
      ((hp x.2).mp (List.find?_some (p := fun x : Bits × α => p x.2) hx))
  have hbs : len e = bs.length := hlen (bs, e) hm
  subst hsame
  exact ⟨by simp [CodeTable.codeOf, hx, hbs], hbs.symm⟩

/-- Where each symbol has one code, a window begins with the code of its symbol. -/
theorem CodeTable.codeOf_of_lookup {w : Bits} {e : α} (h : t.oneCode len symbol = true) (he : t.lookup w = some e)
    (hp : ∀ e', p e' = true ↔ symbol e' = symbol e) :
    ∃ code, t.codeOf len p = some code ∧ code.length = len e ∧ code <+: w := by
  obtain ⟨bs, hm, hw⟩ := CodeTable.lookup_mem_codes he
  obtain ⟨hcode, hlen⟩ := CodeTable.codeOf_of_oneCode h hm hp
  exact ⟨bs, hcode, hlen, hw⟩

end

/-- The values of `LEVTAB` stand for different symbols (R39). -/
theorem LevelValue.symbol_injective : Function.Injective LevelValue.symbol := by
  rintro (⟨na, ma⟩ | _) (⟨nb, mb⟩ | _) h
  · have hv := LevelSymbol.level.inj h
    obtain ⟨rfl, hm⟩ : na = nb ∧ ma.val = mb.val := by cases na <;> cases nb <;> simp at hv ⊢ <;> omega
    rw [Fin.ext hm]
  · cases h
  · cases h
  · rfl

/-- Where each run value has one code, the window of a run begins with it, and it has the entry's length. -/
theorem runCode_of_runtab {c : Cfg} {w : BitVec 12} {len r : Nat} (h1 : c.oneCode) (h : runtab c w = some (len, r)) :
    ∃ code, runCodeOf c.runTab r = some code ∧ code.length = len ∧ code <+: toBits w := by
  obtain ⟨e, he, heq⟩ := Option.map_eq_some_iff.mp h
  obtain ⟨rfl, rfl⟩ := Prod.mk.inj heq
  exact CodeTable.codeOf_of_lookup h1.1 he fun e' => by rw [beq_iff_eq, Fin.ext_iff]

/-- Where each second-class symbol has one code, its window begins with it, and it has the entry's length. -/
theorem levelCode_of_levtab {c : Cfg} {w : BitVec 15} {len : Nat} {v : LevelSymbol} (h1 : c.oneCode)
    (h : levtab c w = some (len, v)) :
    ∃ code, levelCodeOf c.levTab v = some code ∧ code.length = len ∧ code <+: toBits w := by
  obtain ⟨e, he, heq⟩ := Option.map_eq_some_iff.mp h
  obtain ⟨rfl, rfl⟩ := Prod.mk.inj heq
  exact CodeTable.codeOf_of_lookup h1.2 he fun e' => by rw [beq_iff_eq, LevelValue.symbol_injective.eq_iff]

/-! ### The reserved patterns of `REF` -/

theorem runReservedOf_ref : runReservedOf Config.runTabRef = some (List.replicate 7 false) := by decide

theorem levelReservedOf_ref : levelReservedOf Config.levTabRef = some (List.replicate 8 false) := by decide

/-- Under `REF` a reserved run window begins with seven zeros (R81). -/
theorem zeros_prefix_of_runtab_reserved {c : Cfg} (href : c.refCodes) {w : BitVec 12} (h : runtab c w = none) :
    List.replicate 7 false <+: toBits w := by
  rw [Machine.runtab_eq_runDecode href, Machine.runDecode_eq_none_iff href.1] at h
  exact ⟨_, (toBits_of_lt (z := 7) (m := 5) rfl h).symm⟩

/-- Under `REF` a reserved level window begins with eight zeros (R81). -/
theorem zeros_prefix_of_levtab_reserved {c : Cfg} (href : c.refCodes) {w : BitVec 15} (h : levtab c w = none) :
    List.replicate 8 false <+: toBits w := by
  rw [Machine.levtab_eq_levelDecode href, Machine.levelDecode_eq_none_iff href.1] at h
  exact ⟨_, (toBits_of_lt (z := 8) (m := 7) rfl h).symm⟩

/-! ### Encoding a decoded element -/

/-- A slice marker is written by its 22 bits and those discarded after it (R73, R74, R81). -/
theorem encode_decodeSliceHdr_prefix (c : Cfg) {bits : Bits} (h : 22 + c.gobExtraBits ≤ bits.length) :
    encode c (decodeSliceHdr c bits) <+: bits := by
  have hmarker : toBits (field bits 0 22) <+: bits := toBits_field bits 0 22 ▸ bitRun_prefix (by omega)
  simp only [decodeSliceHdr]
  split_ifs with heos
  · rw [encode, ← heos]
    exact hmarker
  · rw [encode, toBits_field, bitRun_append_bitRun]
    exact bitRun_prefix h
  · exact hmarker

/-- The headers with coded flag 0 are written as the flag, the descriptor, and the reserved bits where bit 6 is set (R77). -/
theorem encode_mbHdr (c : Cfg) (flags : BitVec 6) (rsv : BitVec 2) (low : BitVec 7) :
    encode c (.mbHdr flags) = false :: toBits (Machine.descOf false flags) ∧
    encode c (.mbHdrR flags rsv) = false :: (toBits (Machine.descOf true flags) ++ toBits rsv) ∧
    encode c (.mbHdrInvalid low) = false :: toBits (Machine.descInvalid low) := by
  simp only [toBits_descOf, toBits_descInvalid, encode, List.cons_append, and_self]

/-- A macroblock header is written by its coded flag, its descriptor and its reserved bits (R77). -/
theorem encode_decodeMbHdr_prefix (c : Cfg) {bits : Bits} (h : 11 ≤ bits.length) :
    encode c (decodeMbHdr bits) <+: bits := by
  obtain ⟨hmbHdr, hmbHdrR, hmbHdrInvalid⟩ :=
    encode_mbHdr c ((field bits 1 8).extractLsb' 0 6) (field bits 9 2) ((field bits 1 8).extractLsb' 0 7)
  have hdesc : bitAt bits 0 = false → false :: toBits (field bits 1 8) = bitRun bits 0 9 := fun hflag => by
    rw [toBits_field, ← bitRun_append_bitRun bits 0 1 8, bitRun_one, hflag]
    rfl
  simp only [decodeMbHdr]
  split_ifs with hcoded h7 h6
  · rw [encode, ← hcoded, ← bitRun_one]
    exact bitRun_prefix (by omega)
  · rw [hmbHdrR, descOf_extract h7 h6, ← List.cons_append, hdesc (by simpa using hcoded), toBits_field,
      bitRun_append_bitRun]
    exact bitRun_prefix h
  · rw [hmbHdr, descOf_extract h7 (by simpa using h6), hdesc (by simpa using hcoded)]
    exact bitRun_prefix (by omega)
  · rw [hmbHdrInvalid, descInvalid_extract (by simpa using h7), hdesc (by simpa using hcoded)]
    exact bitRun_prefix (by omega)

/-- A run is written by the code its window begins with, a reserved window under `REF` by its zeros (R78, R81). -/
theorem encode_decodeRun_prefix {c : Cfg} {w : BitVec 12}
    (h : c.oneCode ∧ decodeRun c w ≠ .runReserved ∨ c.refCodes) : encode c (decodeRun c w) <+: toBits w := by
  rcases hw : runtab c w with _ | ⟨len, r⟩
  · have hreserved := decodeRun_of_reserved hw
    have href : c.refCodes := h.resolve_left fun ⟨_, hne⟩ => hne hreserved
    rw [hreserved, encode, href.2.1, runReservedOf_ref]
    exact zeros_prefix_of_runtab_reserved href hw
  · have h1 : c.oneCode := h.elim And.left fun href => (codesWf_of_refCodes href).2
    obtain ⟨code, hcode, -, hpre⟩ := runCode_of_runtab h1 hw
    obtain ⟨-, -, h63⟩ := runtab_range hw
    obtain ⟨n, hrun⟩ := runOf_asmRun h63
    rw [decodeRun_of_entry hw, encode_of_runOf c hrun, hcode]
    exact hpre

/-- A second-class symbol is written by the code its window begins with, a reserved window under `REF` by its zeros (R79,
R81). -/
theorem encode_decodeLevel_prefix {c : Cfg} {w : BitVec 15}
    (h : c.oneCode ∧ decodeLevel c w ≠ .levelReserved ∨ c.refCodes) : encode c (decodeLevel c w) <+: toBits w := by
  have h1 : c.oneCode := h.elim And.left fun href => (codesWf_of_refCodes href).2
  rcases hw : levtab c w with _ | ⟨len, v | _⟩
  · have hreserved := decodeLevel_of_reserved hw
    have href : c.refCodes := h.resolve_left fun ⟨_, hne⟩ => hne hreserved
    rw [hreserved, encode, href.2.2, levelReservedOf_ref]
    exact zeros_prefix_of_levtab_reserved href hw
  · obtain ⟨code, hcode, -, hpre⟩ := levelCode_of_levtab h1 hw
    obtain ⟨h0, hlo, hhi⟩ := levtab_level_range hw
    obtain ⟨n, hlevel⟩ := levelOf_asmLevel h0 hlo hhi
    rw [decodeLevel_of_level hw, encode_of_levelOf c hlevel, hcode]
    exact hpre
  · obtain ⟨code, hcode, -, hpre⟩ := levelCode_of_levtab h1 hw
    rw [decodeLevel_of_eob hw, encode, hcode]
    exact hpre

end Sys2Proof

namespace Sys2Proof.Proofs

open Sys2Proof Sys2Proof.Machine

/-- Settles O2: the fields of an element are runs that follow each other from the first bit on, and a symbol's window begins
with its one code. -/
theorem encodeOfDecodeIsThePrefixRead : Obligations.EncodeOfDecodeIsThePrefixRead := by
  intro c p bits hlen hsym
  cases p with
  | alignPad => exact List.prefix_rfl
  | picHdr =>
    have hfields : encode c (decode c .picHdr bits) = bitRun bits 0 (22 + (2 + (3 + c.hdrDiscardBits))) := by
      rw [← bitRun_append_bitRun, ← bitRun_append_bitRun, ← bitRun_append_bitRun, decode, encode]
      simp only [toBits_field, Nat.reduceAdd]
    rw [hfields]
    exact bitRun_prefix (by rw [windowLength] at hlen; omega)
  | sliceHdr =>
    rw [decode]
    exact encode_decodeSliceHdr_prefix c hlen
  | mbHdr =>
    rw [decode]
    exact encode_decodeMbHdr_prefix c hlen
  | trailer | dc =>
    rw [decode, encode, toBits_field]
    exact bitRun_prefix hlen
  | run =>
    have hrun := encode_decodeRun_prefix ((hsym (.inl rfl)).imp_left fun ⟨h1, hne, _⟩ => ⟨h1, hne⟩)
    rw [toBits_field] at hrun
    exact hrun.trans (bitRun_prefix hlen)
  | level =>
    have hlevel := encode_decodeLevel_prefix ((hsym (.inr rfl)).imp_left fun ⟨h1, _, hne⟩ => ⟨h1, hne⟩)
    rw [toBits_field] at hlevel
    exact hlevel.trans (bitRun_prefix hlen)

end Sys2Proof.Proofs
end

section
/-! SUPPORT. How long a symbol is, at the cursor and as the encoder writes it, and what it does inside `LIMIT` (spec
10_state.md R39; 30_encoding.md R71, R78, R79, R84; 41_entropy_decoder.md R124, R125, R127). -/

namespace Sys2Proof

/-! ### Reading back the element of a symbol -/

theorem runtab_encode {c : Cfg} (hc : c.codesWf) {i : Instr} {n r : Nat} (hi : i.runOf = some (n, r)) (hw : i.wf c = true)
    (rest : Bits) : runtab c (field (encode c i ++ rest) 0 12) = some (bitLength c i, r) := by
  rw [wf_of_runOf c hi] at hw
  obtain ⟨code, hcode⟩ := Option.isSome_iff_exists.mp hw
  rw [bitLength, encode_of_runOf c hi, hcode]
  exact runtab_of_code hc hcode rest

theorem levtab_encode {c : Cfg} (hc : c.codesWf) {i : Instr} {n : Nat} {v : Int} (hi : i.levelOf = some (n, v))
    (hw : i.wf c = true) (rest : Bits) : levtab c (field (encode c i ++ rest) 0 15) = some (bitLength c i, .level v) := by
  rw [wf_of_levelOf c hi] at hw
  obtain ⟨code, hcode⟩ := Option.isSome_iff_exists.mp hw
  rw [bitLength, encode_of_levelOf c hi, hcode]
  exact levtab_of_code hc hcode rest

/-! ### The symbols under `REF` -/

theorem isSome_of_length_getD_pos {code : Option Bits} (h : 0 < (code.getD []).length) : code.isSome = true := by
  cases code with
  | none => exact absurd h (Nat.lt_irrefl 0)
  | some bits => rfl

/-- Under `REF` every run value has a code (R78). -/
theorem wf_of_runOf_ref {c : Cfg} (href : c.refCodes) {i : Instr} {n r : Nat} (hi : i.runOf = some (n, r)) :
    i.wf c = true := by
  obtain ⟨h63, -⟩ := asmRun_of_runOf hi
  rw [wf_of_runOf c hi]
  refine isSome_of_length_getD_pos ?_
  rw [Laws.runCodeOf_length href r (by omega)]
  split_ifs <;> omega

/-- Under `REF` every level has a code (R79). -/
theorem wf_of_levelOf_ref {c : Cfg} (href : c.refCodes) {i : Instr} {n : Nat} {v : Int} (hi : i.levelOf = some (n, v)) :
    i.wf c = true := by
  obtain ⟨⟨h0, hlo, hhi⟩, -⟩ := asmLevel_of_levelOf hi
  have hlen := Laws.levelCodeOf_length href (signBit v) v.natAbs (by omega) (by omega)
  rw [withSign_signBit] at hlen
  rw [wf_of_levelOf c hi]
  refine isSome_of_length_getD_pos ?_
  rw [hlen]
  split_ifs <;> omega

/-- Under `REF` a run code has the length of R78's table. -/
theorem bitLength_of_runOf_ref {c : Cfg} (href : c.refCodes) {i : Instr} {n r : Nat} (hi : i.runOf = some (n, r)) :
    bitLength c i = n := by
  have hw := wf_of_runOf_ref href hi
  cases i with
  | run0 => cases hi; exact Laws.EncodedLength.run0 c hw href
  | run1 => cases hi; exact Laws.EncodedLength.run1 c hw href
  | run2 x => cases hi; exact Laws.EncodedLength.run2 x c hw href
  | run3 x => cases hi; exact Laws.EncodedLength.run3 x c hw href
  | run4 x => cases hi; exact Laws.EncodedLength.run4 x c hw href
  | run5 x => cases hi; exact Laws.EncodedLength.run5 x c hw href
  | run6 x => cases hi; exact Laws.EncodedLength.run6 x c hw href
  | _ => cases hi

/-- Under `REF` a level code has the length of R79's table. -/
theorem bitLength_of_levelOf_ref {c : Cfg} (href : c.refCodes) {i : Instr} {n : Nat} {v : Int}
    (hi : i.levelOf = some (n, v)) : bitLength c i = n := by
  have hw := wf_of_levelOf_ref href hi
  cases i with
  | level0 sg => cases hi; exact Laws.EncodedLength.level0 sg c hw href
  | level2 x sg => cases hi; exact Laws.EncodedLength.level2 x sg c hw href
  | level3 x sg => cases hi; exact Laws.EncodedLength.level3 x sg c hw href
  | level4 x sg => cases hi; exact Laws.EncodedLength.level4 x sg c hw href
  | level5 x sg => cases hi; exact Laws.EncodedLength.level5 x sg c hw href
  | level6 x sg => cases hi; exact Laws.EncodedLength.level6 x sg c hw href
  | level7 x sg => cases hi; exact Laws.EncodedLength.level7 x sg c hw href
  | _ => cases hi

end Sys2Proof

namespace Sys2Proof.Machine

open Sys2Proof

/-! ### The length of an element -/

theorem elementLength_of_runOf {i : Instr} {n r : Nat} (hi : i.runOf = some (n, r)) (s : State) :
    s.elementLength i = runCodeLength r s := by
  simp only [State.elementLength, hi]

theorem elementLength_of_levelOf {i : Instr} {n : Nat} {v : Int} (hi : i.levelOf = some (n, v)) (s : State) :
    s.elementLength i = levelCodeLength (.level v) s := by
  cases i with
  | level0 sg | level2 x sg | level3 x sg | level4 x sg | level5 x sg | level6 x sg | level7 x sg => cases hi; rfl
  | _ => cases hi

/-- Where each run value has one code, its length does not depend on the window at the cursor. -/
theorem runCodeLength_of_oneCode {s : State} (h1 : s.cfg.oneCode) (r : Nat) :
    runCodeLength r s = ((runCodeOf s.cfg.runTab r).getD []).length := by
  unfold runCodeLength
  split
  next len r' hw =>
    split_ifs with hr
    · obtain ⟨code, hcode, hlen, -⟩ := runCode_of_runtab h1 hw
      rw [← hr, hcode, Option.getD_some, hlen]
    · rfl
  next => rfl

/-- Where each second-class symbol has one code, its length does not depend on the window at the cursor. -/
theorem levelCodeLength_of_oneCode {s : State} (h1 : s.cfg.oneCode) (v : LevelSymbol) :
    levelCodeLength v s = ((levelCodeOf s.cfg.levTab v).getD []).length := by
  unfold levelCodeLength
  split
  next len v' hw =>
    split_ifs with hv
    · obtain ⟨code, hcode, hlen, -⟩ := levelCode_of_levtab h1 hw
      rw [← hv, hcode, Option.getD_some, hlen]
    · rfl
  next => rfl

/-- Where each symbol has one code, and for every other element, the length at the cursor is that of the encoding (R71). -/
theorem elementLength_eq_bitLength {i : Instr} {s : State} (h1 : i.slot = .run ∨ i.slot = .level → s.cfg.oneCode) :
    s.elementLength i = bitLength s.cfg i := by
  cases i using Instr.family_cases with
  | run i n r hi =>
    rw [elementLength_of_runOf hi, runCodeLength_of_oneCode (h1 (.inl (slot_of_runOf hi))), bitLength, encode_of_runOf _ hi]
  | level i n v hi =>
    rw [elementLength_of_levelOf hi, levelCodeLength_of_oneCode (h1 (.inr (slot_of_levelOf hi))), bitLength,
      encode_of_levelOf _ hi]
  | eob => exact levelCodeLength_of_oneCode (h1 (.inr rfl)) .eob
  | _ => rfl

/-! ### The symbols inside `LIMIT` -/

/-- A run code inside `LIMIT` is consumed and its run added (R124). -/
theorem exec_run_inside {i : Instr} {n r : Nat} (hi : i.runOf = some (n, r)) {s : State}
    (hl : s.pos + s.elementLength i ≤ s.limit) :
    exec i s = .next { s with pos := s.pos + s.elementLength i, idx := s.idx + r, slot := .level } := by
  rw [elementLength_of_runOf hi] at hl ⊢
  rw [exec_of_runOf hi, runSymbol, skipc_of_le hl]
  rfl

/-- A level code inside `LIMIT`, at a scan index up to 63, is consumed and its level placed (R125, R127). -/
theorem exec_level_inside {i : Instr} {n : Nat} {v : Int} (hi : i.levelOf = some (n, v)) {s : State} (h : s.idx < 64)
    (hl : s.pos + s.elementLength i ≤ s.limit) :
    exec i s =
      .next { deqAc ⟨s.idx, h⟩ v s with pos := s.pos + s.elementLength i, idx := s.idx + 1, slot := .run } := by
  rw [elementLength_of_levelOf hi] at hl ⊢
  rw [exec_of_levelOf hi, levelSymbol, withSign_signBit, skipc_of_le hl]
  exact dif_pos h

/-- Under `REF` the length of a run code at the cursor is that of R78's table. -/
theorem elementLength_of_runOf_ref {i : Instr} {n r : Nat} (hi : i.runOf = some (n, r)) {s : State} (href : s.cfg.refCodes) :
    s.elementLength i = n := by
  rw [elementLength_eq_bitLength fun _ => (codesWf_of_refCodes href).2, bitLength_of_runOf_ref href hi]

/-- Under `REF` the length of a level code at the cursor is that of R79's table. -/
theorem elementLength_of_levelOf_ref {i : Instr} {n : Nat} {v : Int} (hi : i.levelOf = some (n, v)) {s : State}
    (href : s.cfg.refCodes) : s.elementLength i = n := by
  rw [elementLength_eq_bitLength fun _ => (codesWf_of_refCodes href).2, bitLength_of_levelOf_ref href hi]

end Sys2Proof.Machine

namespace Sys2Proof.Proofs

open Sys2Proof Sys2Proof.Machine

/-- Settles O8: the element of a run value or a level is read back from its code, and under `REF` each of them has one. -/
theorem assembledSymbolsReadBack : Obligations.AssembledSymbolsReadBack := by
  intro c rest hc
  refine ⟨fun r h63 hw => ?_, fun v h0 hlo hhi hw => ?_, fun href => ⟨fun r h63 => ?_, fun v h0 hlo hhi => ?_⟩⟩
  · obtain ⟨n, hi⟩ := runOf_asmRun h63
    exact runtab_encode hc hi hw rest
  · obtain ⟨n, hi⟩ := levelOf_asmLevel h0 hlo hhi
    exact levtab_encode hc hi hw rest
  · obtain ⟨n, hi⟩ := runOf_asmRun h63
    exact wf_of_runOf_ref href hi
  · obtain ⟨n, hi⟩ := levelOf_asmLevel h0 hlo hhi
    exact wf_of_levelOf_ref href hi

/-- Settles O48: every run code inside `LIMIT` does what its run value says, and under `REF` has the length of its row. -/
theorem runCodesComplete : Obligations.RunCodesComplete := fun _ _ _ _ _ _ =>
  ⟨exec_run_inside (r := 0) rfl, exec_run_inside rfl, exec_run_inside rfl, exec_run_inside rfl, exec_run_inside rfl,
    exec_run_inside rfl, exec_run_inside rfl, fun href =>
    ⟨elementLength_of_runOf_ref rfl href, elementLength_of_runOf_ref rfl href, elementLength_of_runOf_ref rfl href,
      elementLength_of_runOf_ref rfl href, elementLength_of_runOf_ref rfl href, elementLength_of_runOf_ref rfl href,
      elementLength_of_runOf_ref rfl href⟩⟩

/-- Settles O49: a level code inside `LIMIT` places its level by `DEQ.AC`, and under `REF` has the length of its row. -/
theorem levelCodesComplete : Obligations.LevelCodesComplete := fun _ _ _ _ h hi =>
  ⟨exec_level_inside hi h, elementLength_of_levelOf_ref hi⟩

end Sys2Proof.Proofs
end

section
/-! SUPPORT. How far an element moves the cursor (spec 30_encoding.md R71, R76; 45_slice_frame_sequencer.md R228). -/

namespace Sys2Proof

/-- The length of a picture header is that of its fields and the discarded bits (R72). -/
theorem bitLength_picHdr {c : Cfg} {psc : Marker} {fmt : BitVec 2} {scale : BitVec 3} {d : Bits}
    (hw : (Instr.picHdr psc fmt scale d).wf c = true) : bitLength c (.picHdr psc fmt scale d) = 27 + c.hdrDiscardBits := by
  have hd : d.length = c.hdrDiscardBits := beq_iff_eq.mp hw
  simp only [bitLength, encode, List.length_append, toBits_length, hd]
  omega

/-- The length of a slice marker is 22 and that of the discarded bits after it (R73). -/
theorem bitLength_gobHdr {c : Cfg} {m : Marker} {d : Bits} (hw : (Instr.gobHdr m d).wf c = true) :
    bitLength c (.gobHdr m d) = 22 + c.gobExtraBits := by
  obtain ⟨-, hd⟩ := (Bool.and_eq_true _ _).mp hw
  simp only [bitLength, encode, List.length_append, toBits_length, beq_iff_eq.mp hd]

end Sys2Proof

namespace Sys2Proof.Machine

open Sys2Proof

/-- After the padding only the grammar position changes (R70). -/
theorem afterAlign_eq (s : State) : afterAlign s = { s with slot := (afterAlign s).slot } := by
  rcases afterAlign_cases s with ⟨p, -, e⟩ | e <;> rw [e]

/-! ### How far an element advances -/

/-- The cursor stands at `p`, unless the call has failed. -/
def StandsAt (p : Nat) (t : State) : Prop := t.seq ≠ .failed → t.pos = p

theorem yields_standsAt_next {p : Nat} {t : State} (h : t.pos = p) : Yields (StandsAt p) (.next t) :=
  yields_next fun _ => h

theorem yields_standsAt_raise (p : Nat) (k : Err) (t : State) : Yields (StandsAt p) (.next (raise k t)) :=
  yields_next fun h => absurd rfl h

/-- A skip with the truncation test fails, or what follows it decides where the cursor stands. -/
theorem yields_standsAt_skipc {p n : Nat} {k : Err} {s : State} {rest : State → Out}
    (h : Yields (StandsAt p) (rest (bcSkip n s))) : Yields (StandsAt p) (skipc n k s rest) :=
  yields_skipc (fun hs => absurd rfl hs) h

/-- The end of a block leaves the cursor where it is (R184). -/
theorem yields_standsAt_endBlock {p : Nat} {s : State} (h : s.pos = p) : Yields (StandsAt p) (endBlock s) :=
  yields_endBlock (fun _ _ => h) fun m _ => (nextMacroblock_pos { idct s.blockIdx s with raster := some m }).trans h

/-- PICHDR advances over its fields and the discarded bits (R72). -/
theorem yields_standsAt_picHdr (psc : Marker) (fmt : BitVec 2) (scale : BitVec 3) (d : Bits) (s : State) :
    Yields (StandsAt (s.pos + (27 + s.cfg.hdrDiscardBits))) (execPicHdr psc fmt scale d s) := by
  refine yields_standsAt_skipc ?_
  split
  · exact yields_standsAt_raise _ _ _
  refine yields_standsAt_skipc ?_
  dsimp only
  split
  · exact yields_standsAt_raise _ _ _
  refine yields_standsAt_skipc ?_
  split
  · exact yields_standsAt_raise _ _ _
  refine yields_standsAt_skipc ?_
  split
  · exact yields_standsAt_raise _ _ _
  · refine yields_standsAt_next ?_
    show s.pos + 22 + 2 + 3 + s.cfg.hdrDiscardBits = _
    omega

/-- DC advances over its 10 bits, whether its block has AC coefficients or ends (R86, R122). -/
theorem yields_standsAt_dc (v : BitVec 10) (s : State) : Yields (StandsAt (s.pos + 10)) (execDc v s) := by
  refine yields_standsAt_skipc ?_
  dsimp only
  split
  · exact yields_standsAt_next rfl
  · exact yields_standsAt_endBlock rfl

/-- A level advances over its code where it is placed (R127, R128). -/
theorem yields_standsAt_levelSymbol (sg : BitVec 1) (m : Nat) (s : State) :
    Yields (StandsAt (s.pos + levelCodeLength (.level (withSign sg m)) s)) (levelSymbol sg m s) := by
  refine yields_standsAt_skipc ?_
  split
  · exact yields_standsAt_next rfl
  · exact yields_standsAt_raise _ _ _

/-- An element that does not fail advances by its length (R71, R228). -/
theorem exec_standsAt {i : Instr} {s : State} (hw : i.wf s.cfg = true) (hpad : i.slot ≠ .alignPad) :
    Yields (StandsAt (s.pos + s.elementLength i)) (exec i s) := by
  cases i using Instr.family_cases with
  | alignPad pad => exact absurd rfl hpad
  | picHdr psc fmt scale d =>
    have hlen : s.elementLength (.picHdr psc fmt scale d) = 27 + s.cfg.hdrDiscardBits := bitLength_picHdr hw
    rw [hlen]
    exact yields_standsAt_picHdr psc fmt scale d s
  | gobHdr m d =>
    have hlen : s.elementLength (.gobHdr m d) = 22 + s.cfg.gobExtraBits := bitLength_gobHdr hw
    rw [hlen, ← Nat.add_assoc]
    show Yields _ (execGobHdr m d s)
    exact yields_standsAt_skipc (yields_standsAt_skipc (yields_standsAt_next rfl))
  | eosMark =>
    show Yields _ (execEosMark s)
    exact yields_standsAt_skipc (yields_standsAt_next rfl)
  | trailer m =>
    show Yields _ (execTrailer m s)
    refine yields_standsAt_skipc ?_
    refine yields_standsAt_next ?_
    split_ifs <;> rfl
  | badMark m =>
    show Yields _ (execBadMark m s)
    exact yields_standsAt_skipc (yields_standsAt_raise _ _ _)
  | mbHdrC =>
    show Yields _ (execMbHdrC s)
    exact yields_standsAt_skipc (yields_standsAt_raise _ _ _)
  | mbHdr flags =>
    show Yields _ (execMbHdr flags s)
    exact yields_standsAt_skipc (yields_standsAt_skipc (yields_standsAt_next rfl))
  | mbHdrR flags rsv =>
    show Yields _ (execMbHdrR flags rsv s)
    exact yields_standsAt_skipc (yields_standsAt_skipc (yields_standsAt_skipc (yields_standsAt_next rfl)))
  | mbHdrInvalid low =>
    show Yields _ (execMbHdrInvalid low s)
    exact yields_standsAt_skipc (yields_standsAt_skipc (yields_standsAt_raise _ _ _))
  | dc v => exact yields_standsAt_dc v s
  | run i n r hi =>
    rw [elementLength_of_runOf hi, exec_of_runOf hi]
    exact yields_standsAt_skipc (yields_standsAt_next rfl)
  | level i n v hi =>
    have hlevel := yields_standsAt_levelSymbol (signBit v) v.natAbs s
    rw [withSign_signBit] at hlevel
    rw [elementLength_of_levelOf hi, exec_of_levelOf hi]
    exact hlevel
  | eob =>
    show Yields _ (execEob s)
    exact yields_standsAt_skipc (yields_standsAt_endBlock rfl)
  | runReserved | levelReserved => exact yields_standsAt_raise _ _ _

end Sys2Proof.Machine

namespace Sys2Proof.Proofs

open Sys2Proof Sys2Proof.Machine

/-- Settles O17: each skip of an element adds to `pos`, and together they are its length. -/
theorem elementAdvancesByItsLength : Obligations.ElementAdvancesByItsLength := fun _ _ t hw hpad hexec hseq =>
  ⟨exec_standsAt hw hpad t hexec hseq, elementLength_eq_bitLength⟩

/-- Settles O31: the cursor moves to the byte boundary, and the sequencer state alone decides what is read there. -/
theorem alignPadCompletes : Obligations.AlignPadCompletes := by
  intro pad s
  show Host.Outcome.next (afterAlign (bcAlign s)) = _
  rw [afterAlign_eq, afterAlign_slot]
  rfl

end Sys2Proof.Proofs
end

section
/-! SUPPORT. The bit cursor: what a skip, a read and an alignment do (spec 40_bit_cursor.md R102 to R105), and what an element
does whose field or code ends past `LIMIT` (R111; 41_entropy_decoder.md R130; 60_exceptions.md R241, R247). -/

namespace Sys2Proof

/-- A bit run's value is the weighted sum of its bits, the first the most significant (R14, R52). -/
theorem bitsToNat_eq_sum (bits : Bits) :
    bitsToNat bits = ∑ i ∈ Finset.range bits.length, (bitAt bits i).toNat * 2 ^ (bits.length - 1 - i) := by
  induction bits with
  | nil => rfl
  | cons b bs ih =>
    rw [List.length_cons, Finset.sum_range_succ', bitsToNat, ih, Nat.add_comm]
    congr 1
    refine Finset.sum_congr rfl fun i _ => ?_
    rw [show bs.length + 1 - 1 - (i + 1) = bs.length - 1 - i by omega]
    rfl

/-- At a byte boundary there is no padding (R76). -/
theorem padLength_of_aligned {pos : Nat} (h : pos % 8 = 0) : padLength pos = 0 := by simp [padLength, h]

end Sys2Proof

namespace Sys2Proof.Machine

open Sys2Proof

/-! ### Skipping and aligning -/

/-- `overrun` is sticky: no skip clears it (R103). -/
theorem overrun_bcSkip {s : State} (h : s.overrun = true) (n : Nat) : (bcSkip n s).overrun = true := by
  have hpos : s.limit < s.pos := of_decide_eq_true h
  exact decide_eq_true (Nat.lt_add_right n hpos)

theorem bcSkip_bcSkip (m n : Nat) (s : State) : bcSkip n (bcSkip m s) = bcSkip (m + n) s := by
  simp only [bcSkip, Nat.add_assoc]

/-- Aligning an aligned cursor changes nothing (R105). -/
theorem bcAlign_of_aligned {s : State} (h : s.pos % 8 = 0) : bcAlign s = s := by
  rw [bcAlign, padLength_of_aligned h]
  rfl

/-! ### Peeking -/

theorem bitAt_window {s : State} {n i : Nat} (h : i < n) : bitAt (s.window n) i = s.sbit (s.pos + i) := by
  simp [bitAt, State.window, h]

theorem bcPeek_toNat (n : Nat) (s : State) : (bcPeek n s).toNat = bitsToNat (s.window n) := by
  have hlt := bitsToNat_lt (s.window n)
  rw [window_length] at hlt
  rw [bcPeek, BitVec.toNat_ofNat, Nat.mod_eq_of_lt hlt]

/-- A peek is the weighted sum of the stream bits at the cursor (R102). -/
theorem bcPeek_eq_sum (n : Nat) (s : State) :
    (bcPeek n s).toNat = ∑ i ∈ Finset.range n, (s.sbit (s.pos + i)).toNat * 2 ^ (n - 1 - i) := by
  rw [bcPeek_toNat, bitsToNat_eq_sum, window_length]
  exact Finset.sum_congr rfl fun i hi => by rw [bitAt_window (Finset.mem_range.mp hi)]

/-- A shorter peek is the first bits of a longer one (R104). -/
theorem bcPeek_prefix {m n : Nat} (h : m ≤ n) (s : State) : bcPeek m s = (bcPeek n s).extractLsb' (n - m) m := by
  have htake : bitsToNat (s.window m) = bitsToNat (s.window n) / 2 ^ (n - m) := by
    rw [← Nat.min_eq_left h, ← window_take, bitsToNat_take, window_length, Nat.min_eq_left h]
  refine BitVec.eq_of_toNat_eq ?_
  rw [BitVec.extractLsb'_toNat, bcPeek_toNat n, Nat.shiftRight_eq_div_pow, ← htake, ← bcPeek_toNat,
    Nat.mod_eq_of_lt (bcPeek m s).isLt]

/-! ### Fields and codes that end past `LIMIT` -/

/-- A field behind `m` bits of the element, cut off: the cursor stands after both (R111). -/
theorem skipc_bcSkip_of_lt {m n : Nat} {k : Err} {s : State} {rest : State → Out} (h : s.limit < s.pos + (m + n)) :
    skipc n k (bcSkip m s) rest = .next (raise k (bcSkip (m + n) s)) := by
  rw [← Nat.add_assoc] at h
  rw [skipc_of_lt h, bcSkip_bcSkip]

/-- What is left of PICHDR once the scale is accepted: the discarded bits, then the dimensions (R214 to R216). -/
def picHdrDiscard (s : State) : Out :=
  skipc s.cfg.hdrDiscardBits .truncatedInput s fun s =>
  if !dimsOk s.cfg s.width s.height then .next (raise .invalidHeader s) else .next (enterSlices s)

/-- What is left of PICHDR once the format is accepted (R212, R213). -/
def picHdrScale (fmt : BitVec 2) (scale : BitVec 3) (s : State) : Out :=
  skipc 3 .truncatedInput s fun s =>
  if scale = 0 then .next (raise .invalidHeader { s with scale := scale })
  else picHdrDiscard { s with scale := scale, width := widthOf s.cfg fmt scale, height := heightOf s.cfg fmt scale }

/-- What is left of PICHDR once the start marker is accepted (R212). -/
def picHdrFormat (fmt : BitVec 2) (scale : BitVec 3) (s : State) : Out :=
  skipc 2 .truncatedInput s fun s =>
  if fmt = 0 then .next (raise .invalidHeader { s with fmt := fmt }) else picHdrScale fmt scale { s with fmt := fmt }

section

variable {psc : Marker} {fmt : BitVec 2} {scale : BitVec 3} {s : State}

/-- PICHDR with its start marker inside `LIMIT` and right goes on to the format. -/
theorem exec_picHdr_of_psc (d : Bits) (h : s.pos + 22 ≤ s.limit) (hpsc : psc = s.cfg.psc) :
    exec (.picHdr psc fmt scale d) s = picHdrFormat fmt scale (bcSkip 22 s) := by
  rw [exec, execPicHdr, skipc_of_le h]
  exact if_neg (not_not.mpr hpsc)

/-- PICHDR with marker and format inside `LIMIT` and accepted goes on to the scale. -/
theorem exec_picHdr_of_fmt (d : Bits) (h : s.pos + 24 ≤ s.limit) (hpsc : psc = s.cfg.psc) (hfmt : fmt ≠ 0) :
    exec (.picHdr psc fmt scale d) s = picHdrScale fmt scale { bcSkip 24 s with fmt := fmt } := by
  rw [exec_picHdr_of_psc d (by omega) hpsc, picHdrFormat, skipc_of_le, bcSkip_bcSkip]
  · exact if_neg hfmt
  · exact h

/-- PICHDR with marker, format and scale inside `LIMIT` and accepted goes on to the discarded bits. -/
theorem exec_picHdr_of_scale (d : Bits) (h : s.pos + 27 ≤ s.limit) (hpsc : psc = s.cfg.psc) (hfmt : fmt ≠ 0)
    (hscale : scale ≠ 0) :
    exec (.picHdr psc fmt scale d) s = picHdrDiscard { bcSkip 27 s with
      fmt := fmt, scale := scale, width := widthOf s.cfg fmt scale, height := heightOf s.cfg fmt scale } := by
  rw [exec_picHdr_of_fmt d (by omega) hpsc hfmt, picHdrScale, skipc_of_le]
  · exact if_neg hscale
  · exact h

end

/-- A DC field cut off: the block is cleared before it is read (R121). -/
theorem exec_dc_cutOff {v : BitVec 10} {s : State} (h : s.limit < s.pos + 10) :
    exec (.dc v) s = .next (raise .truncatedBlock (bcSkip 10 (clearCoef s))) := by
  rw [exec, execDc]
  exact skipc_of_lt h

/-- An end-of-block code cut off: the block does not end (R130). -/
theorem exec_eob_cutOff {s : State} (h : s.limit < s.pos + s.elementLength .eob) :
    exec .eob s = .next (raise .truncatedBlock (bcSkip (s.elementLength .eob) s)) := by
  rw [elementLength_eob] at h ⊢
  rw [exec, execEob, skipc_of_lt h]

/-- A run code cut off: nothing but the cursor moves before the failure (R130). -/
theorem exec_run_cutOff {i : Instr} {n r : Nat} (hi : i.runOf = some (n, r)) {s : State}
    (h : s.limit < s.pos + s.elementLength i) :
    exec i s = .next (raise .truncatedBlock (bcSkip (s.elementLength i) s)) := by
  rw [elementLength_of_runOf hi] at h ⊢
  rw [exec_of_runOf hi, runSymbol, skipc_of_lt h]

/-- A level code cut off: nothing but the cursor moves before the failure (R130). -/
theorem exec_level_cutOff {i : Instr} {n : Nat} {v : Int} (hi : i.levelOf = some (n, v)) {s : State}
    (h : s.limit < s.pos + s.elementLength i) :
    exec i s = .next (raise .truncatedBlock (bcSkip (s.elementLength i) s)) := by
  rw [elementLength_of_levelOf hi] at h ⊢
  rw [exec_of_levelOf hi, levelSymbol, withSign_signBit, skipc_of_lt h]

end Sys2Proof.Machine

namespace Sys2Proof.Proofs

open Sys2Proof Sys2Proof.Machine

/-- Settles O11: a peek is the value of the window at the cursor, and the window of a shorter peek is its first bits. -/
theorem peekIsTheWeightedSumOfStreamBits : Obligations.PeekIsTheWeightedSumOfStreamBits := fun n s =>
  ⟨bcPeek_eq_sum n s, rfl, fun _ h => bcPeek_prefix h s⟩

/-- Settles O10: a skip moves `pos` alone, and a cursor past `LIMIT` stays past it. -/
theorem skipAddsToPositionOnly : Obligations.SkipAddsToPositionOnly := fun n s =>
  ⟨rfl, bcSkip_overrun n s, fun h => overrun_bcSkip h n, rfl, fun h => by rw [bcSkip_pos, h]⟩

/-- Settles O13: an alignment is a skip over the padding, and `LIMIT` is itself a byte boundary. -/
theorem alignStopsAtTheNextByteBoundary : Obligations.AlignStopsAtTheNextByteBoundary := fun s =>
  ⟨rfl, padLength_aligned s.pos, Nat.le_of_lt_succ (padLength_lt s.pos), bcAlign_of_aligned, align_le_limit⟩

/-- Settles O34: the field that ends past `LIMIT` fails once the fields before it are accepted. -/
theorem picHdrCutOffIsTruncatedInput : Obligations.PicHdrCutOffIsTruncatedInput := by
  intro psc fmt scale d s
  refine ⟨fun h => ?marker, fun h22 h hpsc => ?format, fun h24 h hpsc hfmt => ?scale,
    fun h27 h hpsc hfmt hscale => ?discard⟩
  case marker =>
    rw [exec]
    exact skipc_of_lt h
  case format => exact (exec_picHdr_of_psc d h22 hpsc).trans (skipc_of_lt h)
  case scale => exact (exec_picHdr_of_fmt d h24 hpsc hfmt).trans (skipc_of_lt h)
  case discard =>
    rw [← Nat.add_assoc] at h ⊢
    exact (exec_picHdr_of_scale d h27 hpsc hfmt hscale).trans (skipc_of_lt h)

/-- Settles O38: every marker element begins with the test of its 22 bits, and GOBHDR goes on with that of the bits after. -/
theorem markersCutOffAreTruncatedInput : Obligations.MarkersCutOffAreTruncatedInput := by
  intro m d s
  refine ⟨fun h i hi => ?marker, fun h22 h => ?discard⟩
  case marker => fin_cases hi <;> rw [exec] <;> exact skipc_of_lt h
  case discard =>
    rw [exec, execGobHdr, skipc_of_le h22]
    exact skipc_bcSkip_of_lt h

/-- Settles O41: every header begins with the test of the coded flag, then that of the descriptor, then that of the reserved
bits, each before what is behind it. -/
theorem mbHdrCutOffIsTruncatedInput : Obligations.MbHdrCutOffIsTruncatedInput := by
  intro flags rsv low s
  refine ⟨fun h i hi => ?flag, fun h1 h i hi => ?descriptor, fun h9 h => ?reserved⟩
  case flag => fin_cases hi <;> rw [exec] <;> exact skipc_of_lt h
  case descriptor => fin_cases hi <;> rw [exec] <;> exact (skipc_of_le h1).trans (skipc_bcSkip_of_lt h)
  case reserved =>
    have h1 : s.pos + 1 ≤ s.limit := by omega
    rw [exec, execMbHdrR, skipc_of_le h1, skipc_of_le, skipc_of_lt]
    · rfl
    · exact h
    · exact h9

/-- Settles O52: each element of a block begins with the test of its own code; DC has cleared the block before it. -/
theorem blockCodesCutOffAreTruncatedBlock : Obligations.BlockCodesCutOffAreTruncatedBlock := fun _ _ _ =>
  ⟨fun _ => exec_dc_cutOff, exec_eob_cutOff, fun _ hi => exec_run_cutOff hi, fun _ hi => exec_level_cutOff hi⟩

end Sys2Proof.Proofs
end

section
/-! SUPPORT. What the elements of a block do inside `LIMIT`: DC, the end of block, a level past the last coefficient, and the
reserved patterns (spec 41_entropy_decoder.md R121 to R129; 43_inverse_dct.md R160; 44_macroblock_csc.md R184). -/

namespace Sys2Proof.Machine

open Sys2Proof

/-- DC inside `LIMIT`: the block holds its DC coefficient alone, and the AC loop or the end of the block follows (R121 to
R123). -/
theorem exec_dc_inside (v : BitVec 10) {s : State} (h : s.pos + 10 ≤ s.limit) :
    exec (.dc v) s =
      if s.hasAc s.blockIdx then .next (enterAc (deqDc v (bcSkip 10 (clearCoef s))))
      else endBlock (deqDc v (bcSkip 10 (clearCoef s))) := by
  rw [exec, execDc]
  exact skipc_of_le h

/-- EOB inside `LIMIT` ends the block with `COEF` as it stands (R126). -/
theorem exec_eob_inside {s : State} (h : s.pos + s.elementLength .eob ≤ s.limit) :
    exec .eob s = endBlock (bcSkip (s.elementLength .eob) s) := by
  rw [elementLength_eob] at h ⊢
  rw [exec, execEob, skipc_of_le h]

/-- Under `REF` the code of the end of block has the length of R79's table. -/
theorem elementLength_eob_ref {s : State} (href : s.cfg.refCodes) : s.elementLength .eob = 2 := by
  have hw : Instr.eob.wf s.cfg = true := by
    obtain ⟨-, -, hlev⟩ := href
    rw [Instr.wf, hlev]
    decide
  rw [elementLength_eq_bitLength fun _ => (codesWf_of_refCodes href).2]
  exact Laws.EncodedLength.eob s.cfg hw href

/-- A level code inside `LIMIT` at a scan index past 63 fails after its code (R128). -/
theorem exec_level_pastLast {i : Instr} {n : Nat} {v : Int} (hi : i.levelOf = some (n, v)) {s : State} (h : 64 ≤ s.idx)
    (hl : s.pos + s.elementLength i ≤ s.limit) :
    exec i s = .next (raise .truncatedBlock (bcSkip (s.elementLength i) s)) := by
  rw [elementLength_of_levelOf hi] at hl ⊢
  rw [exec_of_levelOf hi, levelSymbol, withSign_signBit, skipc_of_le hl]
  exact dif_neg (Nat.not_lt.mpr h)

end Sys2Proof.Machine

namespace Sys2Proof.Proofs

open Sys2Proof Sys2Proof.Machine

/-- Settles O42: with `DESC[B]` set, DC inside `LIMIT` opens the AC loop. -/
theorem dcOfAnAcBlockCompletes : Obligations.DcOfAnAcBlockCompletes := fun v _ hpos hac =>
  (exec_dc_inside v hpos).trans (if_pos hac)

/-- Settles O43: with `DESC[B]` clear, DC inside `LIMIT` ends the block, and before block 5 the next one follows. -/
theorem dcOfAFlatBlockCompletes : Obligations.DcOfAFlatBlockCompletes := by
  intro v s hblock hpos hflat
  have hac : ¬ s.hasAc s.blockIdx = true := by simp [State.hasAc, hflat]
  rw [exec_dc_inside v hpos, if_neg hac]
  exact endBlock_of_lt (s := deqDc v (bcSkip 10 (clearCoef s))) hblock

/-- Settles O44: EOB inside `LIMIT` ends the block, and before block 5 the next one follows. -/
theorem eobCompletes : Obligations.EobCompletes := fun s hblock =>
  ⟨fun hpos => (exec_eob_inside hpos).trans (endBlock_of_lt (s := bcSkip _ s) hblock), elementLength_eob_ref⟩

/-- Settles O50: the level's code is consumed, and the test of the scan index fails before a coefficient is placed. -/
theorem levelPastTheLastCoefficientRaises : Obligations.LevelPastTheLastCoefficientRaises := fun _ _ _ _ hi hidx hpos =>
  exec_level_pastLast hi hidx hpos

/-- Settles O51: a reserved pattern is the error entry itself, at the cursor where the pattern begins. -/
theorem reservedPatternsRaiseWithoutConsuming : Obligations.ReservedPatternsRaiseWithoutConsuming := fun _ => ⟨rfl, rfl⟩

end Sys2Proof.Proofs
end

section
/-! SUPPORT. Every call ends within its step bound: a step that leaves the call running takes the bits of its element off the
bits left before `LIMIT`, and no padding follows padding (spec 45_slice_frame_sequencer.md R229; 60_exceptions.md R253;
70_reset_and_hazards.md R281). -/

namespace Sys2Proof.Machine

open Sys2Proof

/-! ### Fields at the cursor -/

/-- The bits of the window behind `off` others are those at the cursor after a skip (R102, R103). -/
theorem bitRun_window {s : State} {off k n : Nat} (h : off + k ≤ n) :
    bitRun (s.window n) off k = (bcSkip off s).window k := by
  refine List.map_congr_left fun i hi => ?_
  have hi := List.mem_range.mp hi
  rw [bitAt_window (by omega), ← Nat.add_assoc]
  rfl

/-- A field of the window is the peek that reads it (R102, R104). -/
theorem field_window {s : State} {off k n : Nat} (h : off + k ≤ n) :
    field (s.window n) off k = bcPeek k (bcSkip off s) := by
  rw [field, bitRun_window h, bcPeek]

/-- In run position the decoder looks up the peek of 12 bits (R39, R124). -/
theorem fetch_run {s : State} (hslot : s.slot = .run) : fetch s = decodeRun s.cfg (bcPeek 12 s) := by
  rw [fetch, fetchWindow, hslot, decode, windowLength, field_window (by omega)]
  rfl

/-- In level position the decoder looks up the peek of 15 bits (R39, R125). -/
theorem fetch_level {s : State} (hslot : s.slot = .level) : fetch s = decodeLevel s.cfg (bcPeek 15 s) := by
  rw [fetch, fetchWindow, hslot, decode, windowLength, field_window (by omega)]
  rfl

/-! ### Every element but padding has bits -/

/-- The element at the cursor is well formed (R39, R70). -/
theorem fetch_wf (s : State) : (fetch s).wf s.cfg = true := by
  refine decode_wf s.cfg fun hpad => ?_
  rw [fetchWindow, window_length, hpad]
  exact Nat.le_of_lt_succ (padLength_lt s.pos)

/-- A run in run position takes at least one bit; a reserved pattern fails (R39, R129). -/
theorem exec_fetch_run_pos {s t : State} (hslot : s.slot = .run) (hstep : exec (fetch s) s = .next t)
    (hseq : t.seq ≠ .failed) : 0 < s.elementLength (fetch s) := by
  rw [fetch_run hslot] at hstep ⊢
  rcases h : runtab s.cfg (bcPeek 12 s) with _ | ⟨len, r⟩
  · rw [decodeRun_of_reserved h] at hstep
    cases hstep
    exact absurd rfl hseq
  · obtain ⟨hlen, -, h63⟩ := runtab_range h
    obtain ⟨n, hi⟩ := runOf_asmRun h63
    rw [decodeRun_of_entry h, elementLength_of_runOf hi, runCodeLength_of_entry h]
    exact hlen

/-- A level or an end of block takes at least one bit; a reserved pattern fails (R39, R129). -/
theorem exec_fetch_level_pos {s t : State} (hslot : s.slot = .level) (hstep : exec (fetch s) s = .next t)
    (hseq : t.seq ≠ .failed) : 0 < s.elementLength (fetch s) := by
  rw [fetch_level hslot] at hstep ⊢
  rcases h : levtab s.cfg (bcPeek 15 s) with _ | ⟨len, v | _⟩
  · rw [decodeLevel_of_reserved h] at hstep
    cases hstep
    exact absurd rfl hseq
  · obtain ⟨hlen, -⟩ := levtab_length_range h
    obtain ⟨h0, hlo, hhi⟩ := levtab_level_range h
    obtain ⟨n, hi⟩ := levelOf_asmLevel h0 hlo hhi
    rw [decodeLevel_of_level h, elementLength_of_levelOf hi, levelCodeLength_of_entry h]
    omega
  · obtain ⟨hlen, -⟩ := levtab_length_range h
    rw [decodeLevel_of_eob h, elementLength_eob, levelCodeLength_of_entry h]
    omega

/-- Outside the AC loop every element but padding is written with at least one bit (R71). -/
theorem bitLength_pos {c : Cfg} {i : Instr} (hpad : i.slot ≠ .alignPad) (hrun : i.slot ≠ .run)
    (hlevel : i.slot ≠ .level) : 0 < bitLength c i := by
  cases i using Instr.family_cases with
  | alignPad pad => exact absurd rfl hpad
  | run i n r hi => exact absurd (slot_of_runOf hi) hrun
  | runReserved => exact absurd rfl hrun
  | level i n v hi => exact absurd (slot_of_levelOf hi) hlevel
  | eob | levelReserved => exact absurd rfl hlevel
  | _ => simp [bitLength, encode]

/-- An element that does not fail has bits, but for padding. -/
theorem exec_fetch_pos {s t : State} (hpad : s.slot ≠ .alignPad) (hstep : exec (fetch s) s = .next t)
    (hseq : t.seq ≠ .failed) : 0 < s.elementLength (fetch s) := by
  by_cases hrun : s.slot = .run
  · exact exec_fetch_run_pos hrun hstep hseq
  by_cases hlevel : s.slot = .level
  · exact exec_fetch_level_pos hlevel hstep hseq
  rw [← fetch_slot s] at hpad hrun hlevel
  rw [elementLength_eq_bitLength fun h => absurd h (not_or.mpr ⟨hrun, hlevel⟩)]
  exact bitLength_pos hpad hrun hlevel

/-! ### The step bound -/

/-- A running call stands inside `LIMIT` (R109). -/
theorem State.Inv.pos_le_limit {s : State} (h : s.Inv) (hrun : s.running = true) : s.pos ≤ s.limit := by
  rcases h.phase_cases hrun with ⟨-, -, hpos, -⟩ | ⟨-, hpos, -⟩ | ⟨-, hpos, -⟩
  · rw [hpos]
    exact Nat.zero_le _
  · exact hpos
  · exact hpos

theorem stepsLeft_pos (s : State) : 0 < s.stepsLeft := by
  unfold State.stepsLeft
  split_ifs <;> omega

/-- After the padding of a running call comes the element of its sequencer state (R70). -/
theorem afterAlign_slot_ne_alignPad {s : State} (hrun : s.running = true) : (afterAlign s).slot ≠ .alignPad := by
  obtain ⟨-, hdone, hfailed⟩ := (running_iff s).mp hrun
  rw [afterAlign_slot]
  cases hs : s.seq
  case done => exact absurd hs hdone
  case failed => exact absurd hs hfailed
  all_goals exact nofun

/-- Each step of a running call takes one off the bound at least, unless it ends the call. -/
theorem stepsLeft_lt_of_step {s t : State} (ht : t.Inv) (hrun : s.running = true) (htrun : t.running = true)
    (hstep : step s = .next t) : t.stepsLeft < s.stepsLeft := by
  rw [step_of_running hrun] at hstep
  obtain ⟨-, hlen, -⟩ := (exec_frame _ s t hstep).input
  have hlimit : t.limit = s.limit := by rw [State.limit, hlen, State.limit]
  have hpos := ht.pos_le_limit htrun
  obtain ⟨-, -, hseq⟩ := (running_iff t).mp htrun
  by_cases hpad : s.slot = .alignPad
  · have ht : t = afterAlign (bcAlign s) := by
      rw [fetch, hpad] at hstep
      exact (Host.Outcome.next.inj hstep).symm
    have hslot : t.slot ≠ .alignPad := ht ▸ afterAlign_slot_ne_alignPad (s := bcAlign s) hrun
    have hadv : t.pos = s.pos + padLength s.pos := by rw [ht, afterAlign_pos, bcAlign_pos]
    rw [State.stepsLeft, State.stepsLeft, if_pos hpad, if_neg hslot]
    omega
  · have hadv := exec_standsAt (fetch_wf s) (by rwa [fetch_slot]) t hstep hseq
    have hbits := exec_fetch_pos hpad hstep hseq
    rw [State.stepsLeft, State.stepsLeft, if_neg hpad]
    split_ifs <;> omega

/-- Every call ends within its step bound (R229, R253). -/
theorem run_ends {s : State} (hs : s.Inv) {n : Nat} (hn : s.stepsLeft ≤ n) :
    ∃ t, Host.Core.run Sys2Proof.core n s = .next t ∧ t.running = false := by
  induction n generalizing s with
  | zero =>
    have := stepsLeft_pos s
    omega
  | succ n ih =>
    by_cases hrun : s.running = true
    · obtain ⟨t, hstep, ht⟩ := Proofs.stepNeverFaultsAndKeepsTheInvariant s hs
      rw [run_succ_of_next hstep]
      by_cases htrun : t.running = true
      · have := stepsLeft_lt_of_step ht hrun htrun hstep
        exact ih ht (by omega)
      · have htrun : t.running = false := by simpa using htrun
        exact ⟨t, run_of_step_self (M := Sys2Proof.core) (step_of_not_running htrun) n, htrun⟩
    · have hrun : s.running = false := by simpa using hrun
      exact ⟨s, run_of_step_self (M := Sys2Proof.core) (step_of_not_running hrun) _, hrun⟩

end Sys2Proof.Machine
end

section
/-! SUPPORT. A machine and its pseudocode side by side: the judgement that the machine, from an outcome on, does what a piece of
pseudocode says, and its rules, one for each construct of the pseudocode (spec 40_bit_cursor.md R111; 60_exceptions.md R250). -/

namespace Sys2Proof.Machine

open Sys2Proof

/-! ### Steps from an outcome on -/

/-- The machine leads from one outcome to another in any number of steps. -/
abbrev LeadsTo : Out → Out → Prop := Relation.ReflTransGen fun o o' => ∃ s, o = .next s ∧ step s = o'

theorem leadsTo_step (s : State) : LeadsTo (.next s) (step s) := .single ⟨s, rfl, rfl⟩

/-- A run that has ended ends where the machine leads to. -/
theorem eq_of_leadsTo_of_run {o : Out} {t : State} (h : LeadsTo o (.next t)) (ht : t.running = false) {s u : State} {n : Nat}
    (ho : o = .next s) (hrun : Host.Core.run Sys2Proof.core n s = .next u) (hu : u.running = false) : u = t := by
  induction h using Relation.ReflTransGen.head_induction_on generalizing s n with
  | refl =>
    cases ho
    rw [run_of_step_self (M := Sys2Proof.core) (step_of_not_running ht)] at hrun
    exact (Host.Outcome.next.inj hrun).symm
  | head hmove _ ih =>
    obtain ⟨s', hs', hstep⟩ := hmove
    cases ho.symm.trans hs'
    cases n with
    | zero =>
      cases hrun
      exact ih (hstep.symm.trans (step_of_not_running hu)) (n := 0) rfl
    | succ n =>
      cases hnext : step s with
      | next s' => exact ih (hstep.symm.trans hnext) (run_succ_of_next hnext ▸ hrun)
      | fault r => rw [run_succ_of_fault hnext] at hrun; cases hrun
      | refused r => rw [run_succ_of_refused hnext] at hrun; cases hrun

/-! ### Fields in the pseudocode -/

/-- `SKIPC` inside `LIMIT` goes on (R111). -/
theorem skipC_of_le {n : Nat} {k : Err} {s : State} (h : s.pos + n ≤ s.limit) : skipC n k s = .ok (bcSkip n s) :=
  if_neg (by simpa using h)

/-- `SKIPC` past `LIMIT` raises the truncation error of its context (R111). -/
theorem skipC_of_lt {n : Nat} {k : Err} {s : State} (h : s.limit < s.pos + n) :
    skipC n k s = .error (raise k (bcSkip n s)) :=
  if_pos (by simpa using h)

/-- `READC` is `SKIPC` with the value at the cursor (R104, R111). -/
theorem readC_eq (n : Nat) (k : Err) (s : State) :
    readC n k s = (skipC n k s).bind fun u => .ok (bcPeek n s, u) := by
  rcases Nat.lt_or_ge s.limit (s.pos + n) with h | h
  · rw [skipC_of_lt h]
    exact if_pos (by simpa [bcRead] using h)
  · rw [skipC_of_le h]
    exact if_neg (by simpa [bcRead] using h)

/-! ### The judgement -/

/-- The machine, from outcome `out` on, does what the pseudocode of the given result says: where this ends the call in a
state, the machine comes to an ended call in that state, the grammar position apart; where it goes on with `u`, which then
satisfies `P`, the machine comes to the outcome `next u`. -/
inductive Computes (out : Out) : Except State State → (State → Out) → (State → Prop) → Prop where
  | ended {t e : State} {next : State → Out} {P : State → Prop} (hlead : LeadsTo out (.next e)) (hrun : e.running = false)
      (hslot : e.dropSlot = t.dropSlot) : Computes out (.error t) next P
  | goesOn {u : State} {next : State → Out} {P : State → Prop} (hlead : LeadsTo out (next u)) (hP : P u) :
      Computes out (.ok u) next P

namespace Computes

variable {out : Out} {r : Except State State} {next : State → Out} {P : State → Prop}

/-- The pseudocode goes on with a state. -/
theorem ok {u : State} (hout : out = next u) (hP : P u) : Computes out (.ok u) next P := .goesOn (hout ▸ .refl) hP

/-- The pseudocode and the machine end the call. -/
theorem ends {m s : State} (hrun : m.running = false) (hslot : m.dropSlot = s.dropSlot) :
    Computes (.next m) (.error s) next P :=
  .ended .refl hrun hslot

/-- The pseudocode and the machine take an error (R250). -/
theorem raise {k : Err} {m s : State} (h : m.dropSlot = s.dropSlot) :
    Computes (.next (raise k m)) (.error (Machine.raise k s)) next P :=
  ends rfl (congrArg (Machine.raise k) h)

/-- The machine comes from another outcome before. -/
theorem after {out' : Out} (hlead : LeadsTo out out') (h : Computes out' r next P) : Computes out r next P := by
  cases h with
  | ended hlead' hrun hslot => exact .ended (hlead.trans hlead') hrun hslot
  | goesOn hlead' hP => exact .goesOn (hlead.trans hlead') hP

/-- The machine takes a step. -/
theorem step {s : State} (h : Computes (step s) r next P) : Computes (.next s) r next P := h.after (leadsTo_step s)

/-- One piece of pseudocode after another. -/
theorem bind {f : State → Except State State} {next' : State → Out} {P' : State → Prop} (h : Computes out r next P)
    (hf : ∀ u, P u → Computes (next u) (f u) next' P') : Computes out (r.bind f) next' P' := by
  cases h with
  | ended hlead hrun hslot => exact .ended hlead hrun hslot
  | goesOn hlead hP => exact (hf _ hP).after hlead

/-- What a piece says of its result may be weakened. -/
theorem mono {P' : State → Prop} (h : Computes out r next P) (hP : ∀ u, P u → P' u) : Computes out r next P' := by
  cases h with
  | ended hlead hrun hslot => exact .ended hlead hrun hslot
  | goesOn hlead hu => exact .goesOn hlead (hP _ hu)

/-- `SKIPC`: the truncation error on both sides, or the rest of both (R111). -/
theorem skipC {n : Nat} {k : Err} {m s : State} {rest : State → Out} {f : State → Except State State}
    (hm : m.dropSlot = s.dropSlot) (h : Computes (rest (bcSkip n m)) (f (bcSkip n s)) next P) :
    Computes (skipc n k m rest) ((skipC n k s).bind f) next P := by
  have hlimit : m.limit = s.limit := (congrArg State.limit hm :)
  have hpos : m.pos = s.pos := (congrArg State.pos hm :)
  rcases skipc_cases n k m rest with ⟨hlt, e⟩ | ⟨hle, e⟩
  · rw [e, skipC_of_lt (by omega)]
    exact raise (congrArg (bcSkip n) hm)
  · rw [e, skipC_of_le (by omega)]
    exact h

/-- `READC`: as `SKIPC`, the rest of the pseudocode with the value read (R111). -/
theorem readC {n : Nat} {k : Err} {m s : State} {rest : State → Out} {f : BitVec n × State → Except State State}
    (hm : m.dropSlot = s.dropSlot) (h : Computes (rest (bcSkip n m)) (f (bcPeek n s, bcSkip n s)) next P) :
    Computes (skipc n k m rest) ((readC n k s).bind f) next P := by
  have hread : (Machine.readC n k s).bind f = (Machine.skipC n k s).bind fun u => f (bcPeek n s, u) := by
    rw [readC_eq]
    cases Machine.skipC n k s <;> rfl
  rw [hread]
  exact skipC hm h

/-- A test of the pseudocode that comes out true. -/
theorem pos {p : Prop} [Decidable p] {a b : Except State State} (hp : p) (h : Computes out a next P) :
    Computes out (if p then a else b) next P :=
  (if_pos hp).symm ▸ h

/-- A test of the pseudocode that comes out false. -/
theorem neg {p : Prop} [Decidable p] {a b : Except State State} (hp : ¬ p) (h : Computes out b next P) :
    Computes out (if p then a else b) next P :=
  (if_neg hp).symm ▸ h

/-- A test on both sides. -/
theorem ite {p p' : Prop} [Decidable p] [Decidable p'] {a b : Out} {a' b' : Except State State} (hp : p ↔ p')
    (ha : p' → Computes a a' next P) (hb : ¬ p' → Computes b b' next P) :
    Computes (if p then a else b) (if p' then a' else b') next P := by
  by_cases h : p'
  · rw [if_pos (hp.mpr h)]
    exact .pos h (ha h)
  · rw [if_neg (mt hp.mp h)]
    exact .neg h (hb h)

end Computes

end Sys2Proof.Machine
end

section
/-! SUPPORT. The steps of a call compute the pseudocode `DECODE`: what a step does at each grammar position, in the terms of the
pseudocode, then block, macroblock, slice and call, each from the pieces it is made of (spec 41_entropy_decoder.md R120;
44_macroblock_csc.md R180; 45_slice_frame_sequencer.md R211). -/

namespace Sys2Proof.Machine

open Sys2Proof

/-! ### The step at each grammar position -/

section

variable {s : State}

theorem step_alignPad (hrun : s.running = true) (hslot : s.slot = .alignPad) :
    step s = .next (afterAlign (bcAlign s)) := by
  rw [step_of_running hrun, fetch, hslot]
  rfl

theorem step_picHdr (hrun : s.running = true) (hslot : s.slot = .picHdr) :
    ∃ d, step s = execPicHdr (bcPeek 22 s) (bcPeek 2 (bcSkip 22 s)) (bcPeek 3 (bcSkip 2 (bcSkip 22 s))) d s := by
  refine ⟨bitRun (s.window (27 + s.cfg.hdrDiscardBits)) 27 s.cfg.hdrDiscardBits, ?_⟩
  rw [step_of_running hrun, fetch, fetchWindow, hslot, decode, windowLength, field_window (by omega),
    field_window (by omega), field_window (by omega)]
  rfl

theorem step_sliceHdr (hrun : s.running = true) (hslot : s.slot = .sliceHdr) :
    ∃ d, step s =
      if bcPeek 22 s = s.cfg.eos then execEosMark s
      else if bcPeek 22 s &&& s.cfg.gobMask = s.cfg.gobMatch then execGobHdr (bcPeek 22 s) d s
      else execBadMark (bcPeek 22 s) s := by
  have hmarker : field (s.window (22 + s.cfg.gobExtraBits)) 0 22 = bcPeek 22 s := field_window (by omega)
  refine ⟨bitRun (s.window (22 + s.cfg.gobExtraBits)) 22 s.cfg.gobExtraBits, ?_⟩
  rw [step_of_running hrun, fetch, fetchWindow, hslot, decode, windowLength]
  simp only [decodeSliceHdr, hmarker]
  split_ifs <;> rfl

theorem step_trailer (hrun : s.running = true) (hslot : s.slot = .trailer) : step s = execTrailer (bcPeek 22 s) s := by
  rw [step_of_running hrun, fetch, fetchWindow, hslot, decode, windowLength, field_window (by omega)]
  rfl

/-- A peek of one bit (R102). -/
theorem bcPeek_one (s : State) : bcPeek 1 s = BitVec.ofBool (bitAt (s.window 1) 0) := by
  refine BitVec.eq_of_toNat_eq ?_
  rw [bcPeek_toNat]
  show (s.sbit (s.pos + 0)).toNat * 2 ^ 0 + 0 = (BitVec.ofBool (s.sbit (s.pos + 0))).toNat
  cases s.sbit (s.pos + 0) <;> rfl

theorem step_mbHdr (hrun : s.running = true) (hslot : s.slot = .mbHdr) :
    step s =
      if bcPeek 1 s = 1 then execMbHdrC s
      else
        let desc := bcPeek 8 (bcSkip 1 s)
        if desc.getLsbD 7 then
          if desc.getLsbD 6 then execMbHdrR (desc.extractLsb' 0 6) (bcPeek 2 (bcSkip 9 s)) s
          else execMbHdr (desc.extractLsb' 0 6) s
        else execMbHdrInvalid (desc.extractLsb' 0 7) s := by
  have hflag : bitAt (s.window 11) 0 = true ↔ bcPeek 1 s = 1 := by
    rw [bcPeek_one, bitAt_window (by omega), bitAt_window (by omega)]
    cases s.sbit (s.pos + 0) <;> decide
  have hdesc : field (s.window 11) 1 8 = bcPeek 8 (bcSkip 1 s) := field_window (by omega)
  have hrsv : field (s.window 11) 9 2 = bcPeek 2 (bcSkip 9 s) := field_window (by omega)
  rw [step_of_running hrun, fetch, fetchWindow, hslot, decode, windowLength]
  simp only [decodeMbHdr, hflag, hdesc, hrsv]
  split_ifs <;> rfl

theorem step_dc (hrun : s.running = true) (hslot : s.slot = .dc) : step s = execDc (bcPeek 10 s) s := by
  rw [step_of_running hrun, fetch, fetchWindow, hslot, decode, windowLength, field_window (by omega)]
  rfl

theorem step_run_reserved (hrun : s.running = true) (hslot : s.slot = .run) (h : runtab s.cfg (bcPeek 12 s) = none) :
    step s = .next (raise .truncatedBlock s) := by
  rw [step_of_running hrun, fetch_run hslot, decodeRun_of_reserved h]
  rfl

theorem step_run_entry (hrun : s.running = true) (hslot : s.slot = .run) {len r : Nat}
    (h : runtab s.cfg (bcPeek 12 s) = some (len, r)) :
    step s = skipc len .truncatedBlock s fun t => .next { t with idx := t.idx + r, slot := .level } := by
  obtain ⟨-, -, h63⟩ := runtab_range h
  obtain ⟨n, hi⟩ := runOf_asmRun h63
  rw [step_of_running hrun, fetch_run hslot, decodeRun_of_entry h, exec_of_runOf hi, runSymbol, runCodeLength_of_entry h]

theorem step_level_reserved (hrun : s.running = true) (hslot : s.slot = .level)
    (h : levtab s.cfg (bcPeek 15 s) = none) : step s = .next (raise .truncatedBlock s) := by
  rw [step_of_running hrun, fetch_level hslot, decodeLevel_of_reserved h]
  rfl

theorem step_level_eob (hrun : s.running = true) (hslot : s.slot = .level) {len : Nat}
    (h : levtab s.cfg (bcPeek 15 s) = some (len, .eob)) : step s = skipc len .truncatedBlock s endBlock := by
  rw [step_of_running hrun, fetch_level hslot, decodeLevel_of_eob h, exec, execEob, levelCodeLength_of_entry h]

theorem step_level_entry (hrun : s.running = true) (hslot : s.slot = .level) {len : Nat} {v : Int}
    (h : levtab s.cfg (bcPeek 15 s) = some (len, .level v)) :
    step s = skipc len .truncatedBlock s fun t =>
      if h : t.idx < 64 then .next { deqAc ⟨t.idx, h⟩ v t with idx := t.idx + 1, slot := .run }
      else .next (raise .truncatedBlock t) := by
  obtain ⟨h0, hlo, hhi⟩ := levtab_level_range h
  obtain ⟨n, hi⟩ := levelOf_asmLevel h0 hlo hhi
  rw [step_of_running hrun, fetch_level hslot, decodeLevel_of_level h, exec_of_levelOf hi, levelSymbol, withSign_signBit,
    levelCodeLength_of_entry h]

end

/-! ### Where a call stands -/

/-- A state at another grammar position, which is the step machine's own (log 4). -/
def State.atSlot (s : State) (p : Slot) : State := { s with slot := p }

/-- What the slice, macroblock and block loops read of a state, apart from the block index: the phase, the picture and the
loop indices (R26, R28, R29). -/
structure Place where
  started : Bool
  seq : Seq
  width : Nat
  height : Nat
  slices : Nat
  mbw : Nat
  hasRaster : Bool
  sliceIdx : Nat
  mbIdx : Nat

/-- The place at which a call stands. -/
def State.place (s : State) : Place :=
  ⟨s.started, s.seq, s.width, s.height, s.slices, s.mbw, s.raster.isSome, s.sliceIdx, s.mbIdx⟩

/-- A place in `DecodeSlices`, with the raster allocated and as many slices and columns as it holds (R215 to R217). -/
structure Place.InPicture (p : Place) : Prop where
  started : p.started = true
  seq : p.seq = .decodeSlices
  hasRaster : p.hasRaster = true
  slices : p.slices = p.height / 16
  mbw : p.mbw = p.width / 16

/-- The loop counts and indices of a state at a known place. -/
theorem loops_of_place {s : State} {p : Place} (h : s.place = p) :
    s.slices = p.slices ∧ s.mbw = p.mbw ∧ s.sliceIdx = p.sliceIdx ∧ s.mbIdx = p.mbIdx := by
  subst h
  exact ⟨rfl, rfl, rfl, rfl⟩

/-- In `DecodeSlices` a call runs. -/
theorem Place.InPicture.running {s : State} (h : s.place.InPicture) : s.running = true := by
  have hseq : s.seq = .decodeSlices := h.seq
  exact (running_iff s).mpr ⟨h.started, by simp [hseq], by simp [hseq]⟩

/-- A macroblock of the picture has its footprint inside the raster (R190). -/
theorem Place.InPicture.footprintInside {s : State} (h : s.place.InPicture) (hslice : s.sliceIdx < s.slices)
    (hmb : s.mbIdx < s.mbw) : footprintInside s = true := by
  have hslices : s.slices = s.height / 16 := h.slices
  have hmbw : s.mbw = s.width / 16 := h.mbw
  simp only [Machine.footprintInside, Bool.and_eq_true, decide_eq_true_eq]
  omega

/-- Meanings that end alike with equal states are equal. -/
theorem OutRel.eq {o o' : Out} (h : OutRel Eq o o') : o = o' := by
  cases o with
  | next s =>
    obtain ⟨t, ht, rfl⟩ := h.exists_next rfl
    exact ht.symm
  | fault r =>
    cases o' with
    | fault r' => exact congrArg Host.Outcome.fault h
    | next t | refused r' => exact h.elim
  | refused r =>
    cases o' with
    | refused r' => exact congrArg Host.Outcome.refused h
    | next t | fault r' => exact h.elim

/-- What follows a block does not depend on the grammar position of the element that ends it (R184). -/
theorem endBlock_atSlot (s : State) (p : Slot) : endBlock (s.atSlot p) = endBlock s := by
  have hplace : SamePlace s (s.atSlot p) := ⟨rfl, rfl, rfl, rfl, rfl, rfl, rfl, rfl, rfl⟩
  exact (OutRel.endBlock hplace (fun _ => rfl) (fun _ _ => rfl) fun _ =>
    SamePlace.nextMacroblock { hplace with raster := rfl } rfl rfl rfl).eq.symm

/-! ### The AC loop -/

/-- The first-class symbol of one iteration of the AC loop (R120, R124). -/
def acRun (s : State) : Except State State :=
  match runtab s.cfg (bcPeek 12 s) with
  | none => .error (raise .truncatedBlock s)
  | some (len, run) => (skipC len .truncatedBlock s).bind fun t => .ok { t with idx := t.idx + run }

/-- The second-class symbol of one iteration of the AC loop, and the iterations after it (R120, R125 to R128). -/
def acLevel (loop : State → Except State State) (s : State) : Except State State :=
  match levtab s.cfg (bcPeek 15 s) with
  | none => .error (raise .truncatedBlock s)
  | some (len, symbol) =>
    (skipC len .truncatedBlock s).bind fun t =>
      match symbol with
      | .eob => .ok t
      | .level v =>
        if h : t.idx < 64 then loop { deqAc ⟨t.idx, h⟩ v t with idx := t.idx + 1 }
        else .error (raise .truncatedBlock t)

theorem acLoop_succ (f : Nat) (s : State) : acLoop (f + 1) s = (acRun s).bind (acLevel (acLoop f)) := by
  rw [acLoop, acRun]
  rcases runtab s.cfg (bcPeek 12 s) with _ | ⟨len, run⟩
  · rfl
  show _ = ((skipC len .truncatedBlock s).bind fun t => .ok { t with idx := t.idx + run }).bind (acLevel (acLoop f))
  dsimp only
  cases skipC len .truncatedBlock s with
  | error t => rfl
  | ok t =>
    show _ = acLevel (acLoop f) { t with idx := t.idx + run }
    rw [acLevel]
    dsimp only
    rcases levtab t.cfg (bcPeek 15 { t with idx := t.idx + run }) with _ | ⟨len', symbol⟩
    · rfl
    dsimp only
    cases skipC len' .truncatedBlock { t with idx := t.idx + run } <;> rfl

/-- The decode of a block stays at one place and at one block. -/
def SameBlock (s u : State) : Prop := u.place = s.place ∧ u.blockIdx = s.blockIdx

theorem SameBlock.running {s u : State} (h : SameBlock s u) : u.running = s.running := by
  obtain ⟨hplace, -⟩ := h
  have hstarted : u.started = s.started := congrArg Place.started hplace
  have hseq : u.seq = s.seq := congrArg Place.seq hplace
  rw [State.running, State.running, hstarted, hseq]

theorem SameBlock.trans {s t u : State} (h : SameBlock s t) (h' : SameBlock t u) : SameBlock s u :=
  ⟨h'.1.trans h.1, h'.2.trans h.2⟩

theorem computes_acRun {s : State} (hrun : s.running = true) :
    Computes (.next (s.atSlot .run)) (acRun s) (fun u => .next (u.atSlot .level))
      (fun u => SameBlock s u ∧ s.idx ≤ u.idx) := by
  have hrun : (s.atSlot .run).running = true := hrun
  refine .step ?_
  rw [acRun]
  rcases h : runtab s.cfg (bcPeek 12 s) with _ | ⟨len, r⟩
  · rw [step_run_reserved hrun rfl h]
    exact .raise rfl
  · rw [step_run_entry hrun rfl h]
    exact .skipC rfl (.ok rfl ⟨⟨rfl, rfl⟩, Nat.le_add_right _ _⟩)

/-- An iteration of the AC loop ends the block, fails, or leaves at a scan index up to 64 for the next one. -/
theorem computes_acLevel {s : State} (hrun : s.running = true) {loop : State → Except State State}
    (hloop : ∀ u, SameBlock s u → s.idx < u.idx → u.idx ≤ 64 →
      Computes (.next (u.atSlot .run)) (loop u) endBlock (SameBlock u)) :
    Computes (.next (s.atSlot .level)) (acLevel loop s) endBlock (SameBlock s) := by
  have hrun : (s.atSlot .level).running = true := hrun
  refine .step ?_
  rw [acLevel]
  rcases h : levtab s.cfg (bcPeek 15 s) with _ | ⟨len, v | _⟩
  · rw [step_level_reserved hrun rfl h]
    exact .raise rfl
  · rw [step_level_entry hrun rfl h]
    refine .skipC rfl ?_
    by_cases hidx : s.idx < 64
    · have hsame : SameBlock s { deqAc ⟨s.idx, hidx⟩ v (bcSkip len s) with idx := s.idx + 1 } := ⟨rfl, rfl⟩
      have hnext := hloop _ hsame (Nat.lt_succ_self _) hidx
      dsimp only
      rw [dif_pos (show (bcSkip len (s.atSlot .level)).idx < 64 from hidx), dif_pos (show (bcSkip len s).idx < 64 from hidx)]
      exact hnext.mono fun _ => hsame.trans
    · dsimp only
      rw [dif_neg (show ¬ (bcSkip len (s.atSlot .level)).idx < 64 from hidx),
        dif_neg (show ¬ (bcSkip len s).idx < 64 from hidx)]
      exact .raise rfl
  · rw [step_level_eob hrun rfl h]
    exact .skipC rfl (.ok (endBlock_atSlot (bcSkip len s) .level) ⟨rfl, rfl⟩)

/-- As many iterations as there are scan indices left are enough, since each one moves the scan index on (R120). -/
theorem computes_acLoop {f : Nat} {s : State} (hrun : s.running = true) (hidx : s.idx ≤ 64) (hf : 65 ≤ s.idx + f) :
    Computes (.next (s.atSlot .run)) (acLoop f s) endBlock (SameBlock s) := by
  induction f generalizing s with
  | zero => omega
  | succ f ih =>
    rw [acLoop_succ]
    refine (computes_acRun hrun).bind fun u ⟨hu, hrunIdx⟩ => ?_
    have hlevel := computes_acLevel (hu.running.trans hrun) fun v hv hlt hle =>
      ih ((hu.trans hv).running.trans hrun) hle (by omega)
    exact hlevel.mono fun _ => hu.trans

/-! ### A block -/

/-- The DC coefficient of `BLOCK.DECODE` (R120, R121). -/
def dcField (s : State) : Except State State :=
  (readC 10 .truncatedBlock (clearCoef s)).bind fun r => .ok (deqDc r.1 r.2)

theorem blockDecode_eq (hasAc : Bool) (s : State) :
    blockDecode hasAc s = (dcField s).bind fun u => if hasAc then acLoop 64 { u with idx := 1 } else .ok u := by
  rw [blockDecode, dcField]
  cases readC 10 .truncatedBlock (clearCoef s) <;> rfl

/-- After the DC coefficient come the AC loop or the end of the block (R121 to R123). -/
theorem computes_dcField {s : State} (hrun : s.running = true) :
    Computes (.next (s.atSlot .dc)) (dcField s)
      (fun u => if s.hasAc s.blockIdx then .next (({ u with idx := 1 } : State).atSlot .run) else endBlock u)
      (SameBlock s) := by
  have hrun : (s.atSlot .dc).running = true := hrun
  refine .step ?_
  rw [step_dc hrun rfl, dcField, execDc]
  refine .readC rfl (.ok ?_ ⟨rfl, rfl⟩)
  by_cases hac : s.hasAc s.blockIdx = true
  · rw [if_pos hac]
    exact if_pos hac
  · rw [if_neg hac]
    exact (if_neg hac).trans (endBlock_atSlot (deqDc (bcPeek 10 s) (bcSkip 10 (clearCoef s))) .dc)

theorem computes_blockDecode {s : State} (hrun : s.running = true) :
    Computes (.next (s.atSlot .dc)) (blockDecode (s.hasAc s.blockIdx) s) endBlock (SameBlock s) := by
  rw [blockDecode_eq]
  refine (computes_dcField hrun).bind fun u hu => ?_
  by_cases hac : s.hasAc s.blockIdx = true
  · have hsame : SameBlock s { u with idx := 1 } := hu
    rw [if_pos hac, if_pos hac]
    exact (computes_acLoop (hsame.running.trans hrun) (show 1 ≤ 64 by decide) (le_refl 65)).mono fun _ => hsame.trans
  · rw [if_neg hac, if_neg hac]
    exact .ok rfl hu

/-! ### A macroblock -/

theorem blockLoop_cons (b : Fin 6) (bs : List (Fin 6)) (s : State) :
    blockLoop (b :: bs) s =
      (blockDecode (({ s with blockIdx := b } : State).hasAc b) { s with blockIdx := b }).bind
        fun u => blockLoop bs (idct b u) := by
  rw [blockLoop]
  cases blockDecode _ { s with blockIdx := b } <;> rfl

/-- The blocks from block `b` on (R184). -/
def blocksFrom (b : Fin 6) : List (Fin 6) := (List.finRange 6).drop b.val

theorem blocksFrom_last : blocksFrom (Fin.last 5) = [Fin.last 5] := by decide

theorem blocksFrom_castSucc (b : Fin 5) : blocksFrom b.castSucc = b.castSucc :: blocksFrom b.succ := by
  revert b
  decide

/-- The block loop from block `b` on leads to the end of the macroblock (R180, R184). -/
theorem computes_blockLoop (b : Fin 6) {s : State} (hrun : s.running = true) :
    Computes (.next (({ s with blockIdx := b } : State).atSlot .dc)) (blockLoop (blocksFrom b) s) endMacroblock
      (fun u => u.place = s.place) := by
  induction b using Fin.reverseInduction generalizing s with
  | last =>
    rw [blocksFrom_last, blockLoop_cons]
    refine (computes_blockDecode (s := { s with blockIdx := Fin.last 5 }) hrun).bind fun u ⟨hplace, hblock⟩ => ?_
    have hlast : ¬ u.blockIdx.val < 5 := by simp [hblock]
    rw [endBlock_of_last hlast, hblock]
    exact .ok rfl hplace
  | cast b ih =>
    rw [blocksFrom_castSucc, blockLoop_cons]
    refine (computes_blockDecode (s := { s with blockIdx := b.castSucc }) hrun).bind fun u hu => ?_
    have ⟨hplace, hblock⟩ := hu
    have hlt : u.blockIdx.val < 5 := by simp [hblock]
    have hidct : (idct b.castSucc u).place = s.place := hplace
    have hnext : endBlock u = .next (({ idct b.castSucc u with blockIdx := b.succ } : State).atSlot .dc) := by
      rw [endBlock_of_lt hlt]
      simp only [hblock]
      rfl
    rw [hnext]
    exact (ih (s := idct b.castSucc u) (hu.running.trans hrun)).mono fun _ h => h.trans hidct

theorem mbHeader_eq (s : State) :
    mbHeader s = (readC 1 .truncatedInput s).bind fun r =>
      if r.1 = 1 then .error (raise .unsupportedMacroblock r.2)
      else (readC 8 .truncatedInput r.2).bind fun q =>
        if q.1.getLsbD 7 = false then .error (raise .invalidDescriptor { q.2 with desc := q.1 })
        else if q.1.getLsbD 6 then (skipC 2 .truncatedInput { q.2 with desc := q.1 }).bind .ok
        else .ok { q.2 with desc := q.1 } := by
  rw [mbHeader]
  rcases readC 1 .truncatedInput s with _ | ⟨mbc, t⟩
  · rfl
  dsimp only [Except.bind]
  split_ifs
  · rfl
  rcases readC 8 .truncatedInput t with _ | ⟨d, u⟩
  · rfl
  dsimp only
  split_ifs
  · rfl
  · cases skipC 2 .truncatedInput { u with desc := d } <;> rfl
  · rfl

/-- The header leaves the loops where they are and opens the block loop (R181 to R184). -/
theorem computes_mbHeader {s : State} (hrun : s.running = true) :
    Computes (.next (s.atSlot .mbHdr)) (mbHeader s) (fun u => .next (({ u with blockIdx := 0 } : State).atSlot .dc))
      (fun u => u.place = s.place) := by
  have hrun : (s.atSlot .mbHdr).running = true := hrun
  refine .step ?_
  rw [step_mbHdr hrun rfl, mbHeader_eq]
  have hflag : bcPeek 1 (s.atSlot .mbHdr) = bcPeek 1 s := rfl
  have hdesc : bcPeek 8 (bcSkip 1 (s.atSlot .mbHdr)) = bcPeek 8 (bcSkip 1 s) := rfl
  simp only [hflag, hdesc]
  split_ifs with hcoded h7 h6
  · exact .readC rfl (.pos hcoded (.raise rfl))
  · rw [execMbHdrR, descOf_extract h7 h6]
    exact .readC rfl (.neg hcoded (.readC rfl (.neg (by simp [h7]) (.pos h6 (.skipC rfl (.ok rfl rfl))))))
  · rw [execMbHdr, descOf_extract h7 (by simpa using h6)]
    exact .readC rfl (.neg hcoded (.readC rfl (.neg (by simp [h7]) (.neg h6 (.ok rfl rfl)))))
  · have h7 : (bcPeek 8 (bcSkip 1 s)).getLsbD 7 = false := by simpa using h7
    rw [execMbHdrInvalid, descInvalid_extract h7]
    exact .readC rfl (.neg hcoded (.readC rfl (.pos h7 (.raise rfl))))

/-- The store of a macroblock inside the raster leaves the call where it is (R190). -/
theorem exists_storeMacroblock {s : State} (hraster : s.raster.isSome = true) (hfoot : footprintInside s = true) :
    ∃ t, storeMacroblock s = some t ∧ t.place = s.place := by
  obtain ⟨m, hm⟩ := Option.isSome_iff_exists.mp hraster
  refine ⟨_, storeMacroblock_of_inside hm hfoot, ?_⟩
  simp only [State.place, hm, Option.isSome_some]

theorem endMacroblock_of_store {s t : State} (h : storeMacroblock s = some t) :
    endMacroblock s = .next (nextMacroblock t) := by
  simp only [endMacroblock, h]

/-- The macroblock is decoded and stored (R180). -/
theorem mbDecode_eq (s : State) :
    mbDecode s = (mbHeader s).bind fun t => (blockLoop [0, 1, 2, 3, 4, 5] t).bind fun u =>
      .ok ((storeMacroblock u).getD u) := by
  rw [mbDecode]
  rcases mbHeader s with _ | t
  · rfl
  · dsimp only [Except.bind]
    cases blockLoop [0, 1, 2, 3, 4, 5] t <;> rfl

/-- A macroblock of the picture is decoded and stored, and the next element is that after it (R180). -/
theorem computes_mbDecode {s : State} (hpic : s.place.InPicture) (hslice : s.sliceIdx < s.slices) (hmb : s.mbIdx < s.mbw) :
    Computes (.next (s.atSlot .mbHdr)) (mbDecode s) (fun u => .next (nextMacroblock u)) (fun u => u.place = s.place) := by
  rw [mbDecode_eq]
  refine (computes_mbHeader hpic.running).bind fun t ht => ?_
  have htpic : t.place.InPicture := ht ▸ hpic
  refine (computes_blockLoop 0 htpic.running).bind fun u hu => ?_
  have huplace : u.place = s.place := hu.trans ht
  have hraster : u.raster.isSome = true := (congrArg Place.hasRaster huplace).trans hpic.hasRaster
  have hfoot : footprintInside u = true := by
    obtain ⟨hslices, hmbw, hsliceIdx, hmbIdx⟩ := loops_of_place huplace
    exact Place.InPicture.footprintInside (huplace ▸ hpic) (hsliceIdx ▸ hslices ▸ hslice) (hmbIdx ▸ hmbw ▸ hmb)
  obtain ⟨v, hstore, hv⟩ := exists_storeMacroblock hraster hfoot
  rw [endMacroblock_of_store hstore, hstore]
  exact .ok rfl (hv.trans huplace)

/-! ### A slice -/

theorem mbLoop_cons (m : Nat) (ms : List Nat) (s : State) :
    mbLoop (m :: ms) s = (mbDecode { s with mbIdx := m }).bind (mbLoop ms) := by
  rw [mbLoop]
  cases mbDecode { s with mbIdx := m } <;> rfl

/-- The macroblock loop from column `m` on leads to what follows the last macroblock of the slice (R221). -/
theorem computes_mbLoop {n m : Nat} {s : State} (hpic : s.place.InPicture) (hslice : s.sliceIdx < s.slices)
    (hn : m + n + 1 = s.mbw) :
    Computes (.next (({ s with mbIdx := m } : State).atSlot .mbHdr)) (mbLoop (List.range' m (n + 1)) s)
      (fun u => .next (nextMacroblock u)) (fun u => u.place = { s.place with mbIdx := s.mbw - 1 }) := by
  induction n generalizing m s with
  | zero =>
    have hlast := computes_mbDecode (s := { s with mbIdx := m }) { hpic with } hslice (show m < s.mbw by omega)
    rw [List.range'_succ, mbLoop_cons]
    refine hlast.bind fun u hu => .ok rfl (hu.trans ?_)
    rw [show s.mbw - 1 = m by omega]
    rfl
  | succ n ih =>
    have hfirst := computes_mbDecode (s := { s with mbIdx := m }) { hpic with } hslice (show m < s.mbw by omega)
    rw [List.range'_succ, mbLoop_cons]
    refine hfirst.bind fun u hu => ?_
    obtain ⟨hslices, hmbw, hsliceIdx, hmbIdx⟩ :
        u.slices = s.slices ∧ u.mbw = s.mbw ∧ u.sliceIdx = s.sliceIdx ∧ u.mbIdx = m := loops_of_place hu
    have hnext : nextMacroblock u = ({ u with mbIdx := m + 1 } : State).atSlot .mbHdr := by
      rw [nextMacroblock, if_pos (by omega), hmbIdx]
      rfl
    have hupic : u.place.InPicture := by
      rw [hu]
      exact { hpic with }
    rw [hnext]
    refine (ih hupic (by omega) (by omega)).mono fun v hv => hv.trans ?_
    rw [hu, hmbw]
    rfl

/-- The marker of a slice, from a byte boundary on (R211, R218 to R220). -/
theorem sliceHeader_eq (s : State) :
    sliceHeader s = (readC 22 .truncatedInput (bcAlign s)).bind fun r =>
      if r.1 = r.2.cfg.eos then .error (finish { r.2 with earlyEos := true })
      else if (r.1 &&& r.2.cfg.gobMask) ≠ r.2.cfg.gobMatch then .error (raise .badSliceMarker r.2)
      else (skipC r.2.cfg.gobExtraBits .truncatedInput r.2).bind .ok := by
  rw [sliceHeader]
  rcases readC 22 .truncatedInput (bcAlign s) with _ | ⟨m, t⟩
  · rfl
  dsimp only [Except.bind]
  split_ifs
  · rfl
  · rfl
  · cases skipC t.cfg.gobExtraBits .truncatedInput t <;> rfl

theorem computes_sliceHeader {s : State} (hpic : s.place.InPicture) :
    Computes (.next (s.atSlot .alignPad)) (sliceHeader s) (fun u => .next (({ u with mbIdx := 0 } : State).atSlot .mbHdr))
      (fun u => u.place = s.place) := by
  have hseq : s.seq = .decodeSlices := hpic.seq
  have hrun : (s.atSlot .alignPad).running = true := hpic.running
  have halign : afterAlign (bcAlign (s.atSlot .alignPad)) = (bcAlign s).atSlot .sliceHdr := by
    simp [afterAlign, State.atSlot, hseq]
  refine .step ?_
  rw [step_alignPad hrun rfl, halign]
  obtain ⟨d, hstep⟩ := step_sliceHdr (s := (bcAlign s).atSlot .sliceHdr) hrun rfl
  have hmarker : bcPeek 22 ((bcAlign s).atSlot .sliceHdr) = bcPeek 22 (bcAlign s) := rfl
  have hcfg : ((bcAlign s).atSlot .sliceHdr).cfg = (bcSkip 22 (bcAlign s)).cfg := rfl
  refine .step ?_
  rw [hstep, hmarker, hcfg, sliceHeader_eq]
  split_ifs with heos hmask
  · exact .readC rfl (.pos heos (.ends rfl rfl))
  · exact .readC rfl (.neg heos (.neg (not_not.mpr hmask) (.skipC rfl (.ok rfl rfl))))
  · exact .readC rfl (.neg heos (.pos hmask (.raise rfl)))

/-! ### A call -/

theorem sliceLoop_cons (i : Nat) (is : List Nat) (s : State) :
    sliceLoop (i :: is) s = (if 0 < i then sliceHeader { s with sliceIdx := i } else .ok { s with sliceIdx := i }).bind
      fun t => (mbLoop (List.range t.mbw) t).bind (sliceLoop is) := by
  rw [sliceLoop]
  rcases (if 0 < i then sliceHeader { s with sliceIdx := i } else .ok { s with sliceIdx := i }) with _ | t
  · rfl
  · dsimp only [Except.bind]
    cases mbLoop (List.range t.mbw) t <;> rfl

/-- The macroblock loop of a whole slice (R217, R221). -/
theorem computes_slice {s : State} (hpic : s.place.InPicture) (hslice : s.sliceIdx < s.slices) (hmbw : 0 < s.mbw) :
    Computes (.next (({ s with mbIdx := 0 } : State).atSlot .mbHdr)) (mbLoop (List.range s.mbw) s)
      (fun u => .next (nextMacroblock u)) (fun u => u.place = { s.place with mbIdx := s.mbw - 1 }) := by
  obtain ⟨n, hn⟩ := Nat.exists_eq_add_of_lt hmbw
  have hrange : List.range s.mbw = List.range' 0 (n + 1) := by rw [List.range_eq_range', hn, Nat.zero_add]
  rw [hrange]
  exact computes_mbLoop hpic hslice hn.symm

/-- The slices after the current one, from the end of its last macroblock on, lead to the trailer (R211, R217). -/
theorem computes_sliceLoop {n : Nat} {s : State} (hpic : s.place.InPicture) (hmb : s.mbIdx + 1 = s.mbw)
    (hn : s.sliceIdx + 1 + n = s.slices) :
    Computes (.next (nextMacroblock s)) (sliceLoop (List.range' (s.sliceIdx + 1) n) s)
      (fun u => .next (({ u with seq := .readTrailer } : State).atSlot .alignPad)) (fun u => u.started = true) := by
  induction n generalizing s with
  | zero =>
    rw [nextMacroblock, if_neg (by omega), if_neg (by omega)]
    exact .ok rfl hpic.started
  | succ n ih =>
    rw [List.range'_succ, sliceLoop_cons, if_pos (Nat.succ_pos _), nextMacroblock, if_neg (by omega), if_pos (by omega)]
    have hentry := computes_sliceHeader (s := { s with sliceIdx := s.sliceIdx + 1 }) { hpic with }
    refine hentry.bind fun t ht => ?_
    have htpic : t.place.InPicture := by
      rw [ht]
      exact { hpic with }
    obtain ⟨hslices, hmbw, hsliceIdx, -⟩ :
        t.slices = s.slices ∧ t.mbw = s.mbw ∧ t.sliceIdx = s.sliceIdx + 1 ∧ t.mbIdx = s.mbIdx := loops_of_place ht
    refine (computes_slice htpic (by omega) (by omega)).bind fun u hu => ?_
    have hupic : u.place.InPicture := by
      rw [hu]
      exact { htpic with }
    obtain ⟨huslices, humbw, husliceIdx, humbIdx⟩ :
        u.slices = t.slices ∧ u.mbw = t.mbw ∧ u.sliceIdx = t.sliceIdx ∧ u.mbIdx = t.mbw - 1 := loops_of_place hu
    have hrest := ih hupic (by omega) (by omega)
    rwa [husliceIdx, hsliceIdx] at hrest

theorem readHeader_eq (s : State) :
    readHeader s = (readC 22 .truncatedInput (bcAlign s)).bind fun r =>
      if r.1 ≠ r.2.cfg.psc then .error (raise .invalidHeader r.2)
      else (readC 2 .truncatedInput r.2).bind fun f =>
        if f.1 = 0 then .error (raise .invalidHeader { f.2 with fmt := f.1 })
        else (readC 3 .truncatedInput { f.2 with fmt := f.1 }).bind fun g =>
          if g.1 = 0 then .error (raise .invalidHeader { g.2 with scale := g.1 })
          else (skipC g.2.cfg.hdrDiscardBits .truncatedInput { g.2 with
              scale := g.1, width := widthOf g.2.cfg f.1 g.1, height := heightOf g.2.cfg f.1 g.1 }).bind fun t =>
            if dimsOk t.cfg t.width t.height = false then .error (raise .invalidHeader t)
            else .ok { allocRaster t with slices := t.height / 16, mbw := t.width / 16, seq := .decodeSlices } := by
  rw [readHeader]
  rcases readC 22 .truncatedInput (bcAlign s) with _ | ⟨psc, t⟩
  · rfl
  dsimp only [Except.bind]
  split_ifs
  · rfl
  rcases readC 2 .truncatedInput t with _ | ⟨fmt, u⟩
  · rfl
  dsimp only
  split_ifs
  · rfl
  rcases readC 3 .truncatedInput { u with fmt := fmt } with _ | ⟨scale, v⟩
  · rfl
  dsimp only
  split_ifs
  · rfl
  cases skipC v.cfg.hdrDiscardBits .truncatedInput { v with
    scale := scale, width := widthOf v.cfg fmt scale, height := heightOf v.cfg fmt scale } <;> rfl

/-- A legal picture has a slice and a macroblock column at least (R215, R216). -/
theorem macroblocks_pos_of_dimsOk {c : Cfg} {w h : Nat} (hdims : dimsOk c w h = true) : 0 < h / 16 ∧ 0 < w / 16 := by
  simp only [dimsOk, Bool.and_eq_true, decide_eq_true_eq, beq_iff_eq] at hdims
  obtain ⟨⟨⟨⟨⟨hw0, hh0⟩, hw16⟩, hh16⟩, -⟩, -⟩ := hdims
  omega

/-- The picture header of a picture that is not empty leads to the first macroblock of the first slice (R211 to R217). -/
theorem computes_readHeader {s : State} (hrun : s.running = true) (hseq : s.seq = .readHeader) :
    Computes (.next (s.atSlot .alignPad)) (readHeader s)
      (fun u => .next (({ u with sliceIdx := 0, mbIdx := 0 } : State).atSlot .mbHdr))
      (fun u => u.place.InPicture ∧ 0 < u.slices ∧ 0 < u.mbw) := by
  obtain ⟨hstarted, -, -⟩ := (running_iff s).mp hrun
  have hrun : (s.atSlot .alignPad).running = true := hrun
  have halign : afterAlign (bcAlign (s.atSlot .alignPad)) = (bcAlign s).atSlot .picHdr := by
    simp [afterAlign, State.atSlot, hseq]
  refine .step ?_
  rw [step_alignPad hrun rfl, halign]
  obtain ⟨d, hstep⟩ := step_picHdr (s := (bcAlign s).atSlot .picHdr) hrun rfl
  refine .step ?_
  rw [hstep, readHeader_eq, execPicHdr]
  refine .readC rfl (.ite Iff.rfl (fun _ => .raise rfl) fun _ => ?_)
  refine .readC rfl (.ite Iff.rfl (fun _ => .raise rfl) fun _ => ?_)
  refine .readC rfl (.ite Iff.rfl (fun _ => .raise rfl) fun _ => ?_)
  refine .skipC rfl (.ite (Iff.of_eq (Bool.not_eq_true' _)) (fun _ => .raise rfl) fun hdims => .ok rfl ?_)
  obtain ⟨hslices, hmbw⟩ := macroblocks_pos_of_dimsOk (by simpa using hdims)
  exact ⟨⟨hstarted, rfl, rfl, rfl, rfl⟩, hslices, hmbw⟩

theorem readTrailer_eq (s : State) :
    readTrailer s = (readC 22 .truncatedInput (bcAlign { s with seq := .readTrailer })).bind fun r =>
      .ok (finish (if r.1 ≠ r.2.cfg.eop then markBadTrailer r.2 else r.2)) := by
  rw [readTrailer]
  cases readC 22 .truncatedInput (bcAlign { s with seq := .readTrailer }) <;> rfl

/-- The trailer ends the call (R222). -/
theorem computes_readTrailer {s : State} (hstarted : s.started = true) :
    Computes (.next (({ s with seq := .readTrailer } : State).atSlot .alignPad)) (readTrailer s)
      (fun u => .next (u.atSlot .trailer)) (fun u => u.running = false) := by
  have hrun : (({ s with seq := .readTrailer } : State).atSlot .alignPad).running = true := hstarted
  have halign : afterAlign (bcAlign (({ s with seq := .readTrailer } : State).atSlot .alignPad)) =
      (bcAlign { s with seq := .readTrailer }).atSlot .trailer := rfl
  refine .step ?_
  rw [step_alignPad hrun rfl, halign]
  refine .step ?_
  rw [step_trailer (s := (bcAlign { s with seq := .readTrailer }).atSlot .trailer) hrun rfl, readTrailer_eq, execTrailer]
  refine .readC rfl (.ok ?_ rfl)
  show Host.Outcome.next (finish (if bcPeek 22 (bcAlign s) ≠ s.cfg.eop then _ else _)) =
    .next ((finish (if bcPeek 22 (bcAlign s) ≠ s.cfg.eop then _ else _)).atSlot .trailer)
  split_ifs <;> rfl

/-- The steps of a call compute the pseudocode `DECODE` (R211). -/
theorem computes_decode {s : State} (hrun : s.running = true) (hseq : s.seq = .readHeader) :
    Computes (.next (s.atSlot .alignPad))
      ((readHeader s).bind fun t => (sliceLoop (List.range t.slices) t).bind readTrailer)
      (fun u => .next (u.atSlot .trailer)) (fun u => u.running = false) := by
  refine (computes_readHeader hrun hseq).bind fun t ⟨hpic, hslices, hmbw⟩ => ?_
  obtain ⟨n, hn⟩ := Nat.exists_eq_add_of_lt hslices
  have hrange : List.range t.slices = 0 :: List.range' 1 n := by
    rw [List.range_eq_range', hn, Nat.zero_add, List.range'_succ]
  have hfirst := computes_slice (s := { t with sliceIdx := 0 }) { hpic with } hslices hmbw
  have hloop : Computes (.next (({ t with sliceIdx := 0, mbIdx := 0 } : State).atSlot .mbHdr))
      (sliceLoop (List.range t.slices) t)
      (fun u => .next (({ u with seq := .readTrailer } : State).atSlot .alignPad)) (fun u => u.started = true) := by
    rw [hrange, sliceLoop_cons, if_neg (Nat.lt_irrefl 0)]
    refine hfirst.bind fun u hu => ?_
    have hupic : u.place.InPicture := by
      rw [hu]
      exact { hpic with }
    obtain ⟨huslices, humbw, husliceIdx, humbIdx⟩ :
        u.slices = t.slices ∧ u.mbw = t.mbw ∧ u.sliceIdx = 0 ∧ u.mbIdx = t.mbw - 1 := loops_of_place hu
    have hrest := computes_sliceLoop (n := n) hupic (by omega) (by omega)
    rwa [husliceIdx] at hrest
  exact hloop.bind fun u hu => computes_readTrailer hu

/-- The state in which the pseudocode ends a call, early or at its end (R211). -/
def callEnd : Except State State → State
  | .error t => t
  | .ok t => t

theorem decodeCall_eq (s : State) :
    decodeCall s = callEnd ((readHeader s).bind fun t => (sliceLoop (List.range t.slices) t).bind readTrailer) := by
  rw [decodeCall]
  rcases readHeader s with _ | t
  · rfl
  dsimp only [Except.bind]
  cases sliceLoop (List.range t.slices) t with
  | error u => rfl
  | ok u => cases readTrailer u <;> rfl

/-- The machine comes to an ended call in the state in which the pseudocode ends, the grammar position apart. -/
theorem Computes.exists_end {out : Out} {r : Except State State} {p : Slot}
    (h : Computes out r (fun u => .next (u.atSlot p)) fun u => u.running = false) :
    ∃ e, LeadsTo out (.next e) ∧ e.running = false ∧ e.dropSlot = (callEnd r).dropSlot := by
  cases h with
  | ended hlead hrun hslot => exact ⟨_, hlead, hrun, hslot⟩
  | goesOn hlead hrun => exact ⟨_, hlead, hrun, rfl⟩

end Sys2Proof.Machine

namespace Sys2Proof.Proofs

open Sys2Proof Sys2Proof.Machine

/-- Settles O22: piece by piece, from the picture header to the trailer, the machine comes to an ended call in the state of the
pseudocode; the run as long as the step bound ends the call too, and a call ends in one state only. -/
theorem stepsComputeTheDecodePseudocode : Obligations.StepsComputeTheDecodePseudocode := by
  intro c draws bytes
  obtain ⟨t, hrun, hend⟩ := run_ends (inv_atStart c draws bytes) (le_refl _)
  obtain ⟨e, hlead, hende, hslot⟩ := (computes_decode (s := atStart c draws bytes) rfl rfl).exists_end
  rw [← decodeCall_eq] at hslot
  have het : t = e := eq_of_leadsTo_of_run hlead hende rfl hrun hend
  exact ⟨t, hrun, hend, het ▸ hslot⟩

end Sys2Proof.Proofs
end

section
/-! SUPPORT. The value the dequantizer writes, and that every multiplier is positive (spec 10_state.md R37; 42_dequantizer.md
R151, R152). -/

namespace Sys2Proof.Machine

open Sys2Proof

/-- What `DEQ.DC` leaves in the DC coefficient, whatever the buffer held. -/
theorem deqDc_coef_zero (v : BitVec 10) (s : State) :
    (deqDc v s).coef[0] = (v.toNat : Int) * (s.cfg.iquant[0] : Int) := by
  rw [deqDc_coef, Vector.getElem_set_self]

theorem iquant_pos {c : Cfg} (hc : c.wf) (p : Fin 64) : 0 < (c.iquant[p] : Int) := by
  obtain ⟨-, -, hrange, -⟩ := hc
  obtain ⟨hlow, -⟩ := hrange c.iquant[p] (Vector.mem_toList_iff.mpr (Vector.getElem_mem p.isLt))
  omega

/-- What `DEQ.AC` leaves at the raster position of its scan index. -/
theorem deqAc_coef_zigzag (i : Fin 64) (v : Int) (s : State) :
    (deqAc i v s).coef[s.cfg.zigzag[i]] = v * (s.cfg.iquant[s.cfg.zigzag[i]] : Int) := by
  rw [getElem_deqAc, if_pos rfl]

end Sys2Proof.Machine

namespace Sys2Proof.Proofs

open Sys2Proof Sys2Proof.Machine

/-- Settles O53: the product is bounded because `dc` has 10 bits; under `REF` its multiplier is 3. -/
theorem dequantizedDcIsTheProduct : Obligations.DequantizedDcIsTheProduct := by
  intro v s
  have hv := v.isLt
  obtain ⟨hlow, hhigh⟩ := mul_iquant_bounds s.cfg.iquant[0] (Int.natCast_nonneg v.toNat)
    (show (v.toNat : Int) ≤ 1023 by omega)
  rw [Int.zero_mul] at hlow
  rw [deqDc_coef_zero, deqDc_coef_zero]
  refine ⟨rfl, hlow, hhigh, fun href => ?_⟩
  have hq : s.cfg.iquant[0] = 3 := by rw [href]; rfl
  rw [hq] at hhigh ⊢
  exact ⟨hhigh, rfl⟩

/-- Settles O54: the sign and the nonzero product come from the positive multiplier; under `REF` scan index 3 is raster
position 16, whose multiplier is 7. -/
theorem dequantizedAcIsTheProduct : Obligations.DequantizedAcIsTheProduct := by
  intro i v s hc hv
  have hq := iquant_pos hc s.cfg.zigzag[i]
  rw [deqAc_coef_zigzag]
  refine ⟨rfl, rfl, mul_pos_iff_of_pos_right hq, mul_ne_zero hv hq.ne', fun hz hquant => ?_⟩
  have hp : s.cfg.zigzag[(3 : Fin 64)] = 16 := by rw [hz]; rfl
  have h16 : s.cfg.iquant[(16 : Fin 64)] = 7 := by rw [hquant]; rfl
  calc (deqAc 3 (-5) s).coef[(16 : Fin 64)]
      = -5 * (s.cfg.iquant[(16 : Fin 64)] : Int) := by rw [getElem_deqAc, hp, if_pos rfl]
    _ = -35 := by rw [h16]; rfl

end Sys2Proof.Proofs
end

section
/-! PROOFS. The inverse transform (spec 43_inverse_dct.md R160 to R168): the rounding shift is a bracketed quotient that
cancels a power of two, the kernel copies a lone first entry to all eight outputs, and the entries of both passes follow. -/

namespace Sys2Proof.Machine

open Sys2Proof

/-! ### descale -/

/-- R166: the quotient is bracketed by its rounded dividend, whatever the dividend's sign. -/
theorem descale_bounds (v : Int) (n : Nat) :
    2 ^ n * descale v n ≤ v + 2 ^ (n - 1) ∧ v + 2 ^ (n - 1) < 2 ^ n * (descale v n + 1) := by
  have hpos : (0 : Int) < 2 ^ n := by positivity
  rw [Int.mul_add, Int.mul_one]
  exact ⟨Int.mul_ediv_self_le hpos.ne', Int.lt_mul_ediv_self_add hpos⟩

/-- A scale of `2^m` cancels against the lower `m` bits of the shift, and the rounding addend with it. -/
theorem descale_mul_two_pow {n : Nat} (hn : 1 ≤ n) (w : Int) (m : Nat) : descale (w * 2 ^ m) (m + n) = descale w n := by
  obtain ⟨k, rfl⟩ := Nat.exists_eq_add_of_le' hn
  have hpos : (0 : Int) < 2 ^ m := by positivity
  calc descale (w * 2 ^ m) (m + (k + 1))
      = (2 ^ m * (w + 2 ^ k)) / (2 ^ m * 2 ^ (k + 1)) := by
        rw [descale, ← Nat.add_assoc, Nat.add_sub_cancel, Nat.add_assoc, Int.pow_add, Int.pow_add, Int.mul_comm w,
          ← Int.mul_add]
    _ = descale w (k + 1) := Int.mul_ediv_mul_of_pos _ _ hpos

/-- A multiple of the divisor is descaled exactly: the rounding addend is below the divisor. -/
theorem descale_mul_two_pow_self {n : Nat} (hn : 1 ≤ n) (w : Int) : descale (w * 2 ^ n) n = w := by
  obtain ⟨k, rfl⟩ := Nat.exists_eq_add_of_le' hn
  have hpos : (0 : Int) < 2 ^ k := by positivity
  have hdouble : (2 : Int) ^ (k + 1) = 2 * 2 ^ k := Int.pow_succ' 2 k
  rw [descale, Nat.add_sub_cancel, Int.add_comm, Int.add_mul_ediv_right _ _ (by positivity),
    Int.ediv_eq_zero_of_lt hpos.le (by omega), Int.zero_add]

/-! ### The kernel and the entries of the two passes -/

/-- R167: the kernel copies a lone first entry, scaled by `2^CONST_BITS`, to its eight outputs, whatever the multipliers. -/
theorem getElem_k8_of_dcOnly {c : Cfg} {x : Lane} (h : ∀ i : Fin 8, i ≠ 0 → x[i] = 0) (r : Fin 8) :
    (k8 c x)[r] = x[0] * 2 ^ c.constBits := by
  have h1 : x[1] = 0 := h 1 (by decide)
  have h2 : x[2] = 0 := h 2 (by decide)
  have h3 : x[3] = 0 := h 3 (by decide)
  have h4 : x[4] = 0 := h 4 (by decide)
  have h5 : x[5] = 0 := h 5 (by decide)
  have h6 : x[6] = 0 := h 6 (by decide)
  have h7 : x[7] = 0 := h 7 (by decide)
  fin_cases r <;> simp [k8, h1, h2, h3, h4, h5, h6, h7]

@[simp] theorem getElem_column (b : Block) (j r : Fin 8) : (column b j)[r] = b[8 * r.val + j.val] := by
  simp [column]

@[simp] theorem getElem_row (b : Block) (r j : Fin 8) : (row b r)[j] = b[8 * r.val + j.val] := by
  simp [row]

/-- R16: the row of a raster index is that of its decomposition. -/
theorem rowOf_raster (r j : Fin 8) : rowOf ⟨8 * r.val + j.val, by omega⟩ = r := Fin.ext (by simp only [rowOf]; omega)

/-- R16: the column of a raster index is that of its decomposition. -/
theorem colOf_raster (r j : Fin 8) : colOf ⟨8 * r.val + j.val, by omega⟩ = j := Fin.ext (by simp only [colOf]; omega)

/-- R164, by entry. -/
theorem getElem_pass1 (c : Cfg) (b : Block) (r j : Fin 8) :
    (pass1 c b)[8 * r.val + j.val] = descale (k8 c (column b j))[r] (c.constBits - c.pass1Bits) := by
  simp only [pass1, Vector.getElem_ofFn, rowOf_raster, colOf_raster, Fin.getElem_fin]

/-- R165, by entry. -/
theorem getElem_pass2 (c : Cfg) (w : Block) (r j : Fin 8) :
    (pass2 c w)[8 * r.val + j.val] = descale (k8 c (row w r))[j] (c.constBits + c.pass1Bits + 3) := by
  simp only [pass2, Vector.getElem_ofFn, rowOf_raster, colOf_raster, Fin.getElem_fin]

/-! ### The fast path -/

/-- R167, pass 1: what remains of the kernel's scale is `2^PASS1_BITS`. -/
theorem getElem_pass1_of_dcOnly {c : Cfg} (hc : c.pass1Bits < c.constBits) {b : Block} {j : Fin 8}
    (h : ∀ r : Fin 8, r ≠ 0 → b[8 * r.val + j.val] = 0) (r : Fin 8) :
    (pass1 c b)[8 * r.val + j.val] = b[j.val] * 2 ^ c.pass1Bits := by
  have hcol : ∀ i : Fin 8, i ≠ 0 → (column b j)[i] = 0 := fun i hi => (getElem_column b j i).trans (h i hi)
  have hfirst : (column b j)[0] = b[j.val] := by simp [column]
  have hscale : (2 : Int) ^ c.constBits = 2 ^ c.pass1Bits * 2 ^ (c.constBits - c.pass1Bits) := by
    rw [← Int.pow_add, Nat.add_sub_cancel' hc.le]
  rw [getElem_pass1, getElem_k8_of_dcOnly hcol, hfirst, hscale, ← Int.mul_assoc, descale_mul_two_pow_self (by omega)]

/-- R167, pass 2: the kernel's scale cancels against `CONST_BITS` of the shift. -/
theorem getElem_pass2_of_dcOnly {c : Cfg} {w : Block} {r : Fin 8}
    (h : ∀ j : Fin 8, j ≠ 0 → w[8 * r.val + j.val] = 0) (j : Fin 8) :
    (pass2 c w)[8 * r.val + j.val] = descale w[8 * r.val] (c.pass1Bits + 3) := by
  have hrow : ∀ i : Fin 8, i ≠ 0 → (row w r)[i] = 0 := fun i hi => (getElem_row w r i).trans (h i hi)
  have hfirst : (row w r)[0] = w[8 * r.val] := by simp [row]
  rw [getElem_pass2, getElem_k8_of_dcOnly hrow, hfirst, Nat.add_assoc, descale_mul_two_pow (by omega)]

/-! ### The block with only a DC coefficient -/

/-- R168, pass 1: every column is one of the fast path, and all but the first one are zero. -/
theorem getElem_pass1_zeroBlock_set (d : Int) (r j : Fin 8) :
    (pass1 Config.ref (zeroBlock.set 0 d))[8 * r.val + j.val] = if j = 0 then 2 * d else 0 := by
  have hzero : ∀ i : Fin 8, i ≠ 0 → (zeroBlock.set 0 d)[8 * i.val + j.val] = 0 := fun i hi => by
    have hi' : i.val ≠ 0 := Fin.val_ne_zero_iff.mpr hi
    rw [Vector.getElem_set_ne _ _ (by omega), getElem_zeroBlock]
  rw [getElem_pass1_of_dcOnly (show Config.ref.pass1Bits < Config.ref.constBits by decide) hzero]
  show (zeroBlock.set 0 d)[j.val] * 2 = _
  by_cases hj : j = 0
  · subst hj
    rw [if_pos rfl]
    show (zeroBlock.set 0 d)[0] * 2 = _
    rw [Vector.getElem_set_self, Int.mul_comm]
  · have hj' : j.val ≠ 0 := Fin.val_ne_zero_iff.mpr hj
    rw [if_neg hj, Vector.getElem_set_ne _ _ (by omega), getElem_zeroBlock, Int.zero_mul]

/-- R168, pass 2: every row of the workspace is `2 * d` and seven zeros, so it is one of the fast path. -/
theorem getElem_pass2_zeroBlock_set (d : Int) (r j : Fin 8) :
    (pass2 Config.ref (pass1 Config.ref (zeroBlock.set 0 d)))[8 * r.val + j.val] = (d + 4) / 8 := by
  have hfirst : (pass1 Config.ref (zeroBlock.set 0 d))[8 * r.val] = 2 * d := getElem_pass1_zeroBlock_set d r 0
  rw [getElem_pass2_of_dcOnly fun i hi => (getElem_pass1_zeroBlock_set d r i).trans (if_neg hi), hfirst]
  show (2 * d + 8) / 16 = (d + 4) / 8
  omega

end Sys2Proof.Machine

namespace Sys2Proof.Proofs

open Sys2Proof Sys2Proof.Machine

/-- Settles O55: the general bracket, and the five examples by evaluation. -/
theorem descaleRoundsToNearestTiesUp : Obligations.DescaleRoundsToNearestTiesUp :=
  ⟨fun v n _ => descale_bounds v n, by decide, by decide, by decide, by decide, by decide⟩

/-- Settles O56: each output of the butterfly, multiplied out, is a row of the table. -/
theorem kernelIsItsUnitResponseTable : Obligations.KernelIsItsUnitResponseTable := by
  intro x
  ext i hi
  interval_cases i <;>
    simp only [k8, Config.ref, Config.dctRef, Vector.getElem_mk, List.getElem_toArray, List.getElem_cons_succ,
      List.getElem_cons_zero] <;>
    ring

/-- Settles O57: of the constraints, only that the shift of pass 1 is positive is used. -/
theorem dcFastPathIsBitIdentical : Obligations.DcFastPathIsBitIdentical := by
  intro c b hc
  obtain ⟨-, -, -, -, -, -, hbits, -⟩ := hc
  refine ⟨fun j hcol r => getElem_pass1_of_dcOnly hbits hcol r, fun r hrow j => ?_⟩
  exact getElem_pass2_of_dcOnly hrow j

/-- Settles O58: a raster index is a row and a column, of which each pass treats one. -/
theorem dcOnlyBlockIsFlat : Obligations.DcOnlyBlockIsFlat := by
  intro d i
  obtain ⟨r, j, rfl⟩ : ∃ r j : Fin 8, i = ⟨8 * r.val + j.val, by omega⟩ :=
    ⟨rowOf i, colOf i, Fin.ext (by simp only [rowOf, colOf]; omega)⟩
  have hcol : (8 * r.val + j.val) % 8 = 0 ↔ j = 0 := by rw [Fin.ext_iff, Fin.val_zero]; omega
  simp only [Fin.getElem_fin, hcol]
  exact ⟨getElem_pass1_zeroBlock_set d r j, getElem_pass2_zeroBlock_set d r j⟩

end Sys2Proof.Proofs
end

section
/-! SUPPORT. What a failing element leaves behind: the raster as it was, and a hard error at the cursor (spec
44_macroblock_csc.md R184, R192; 60_exceptions.md R250). -/

namespace Sys2Proof.Machine

open Sys2Proof

/-- If the call has failed in `t`, the raster is that of `s`, and a hard error is recorded at the cursor (R250). -/
def FailsWithRasterOf (s t : State) : Prop :=
  t.seq = .failed → t.raster = s.raster ∧ t.failPos = t.pos ∧ t.err.hard = true

section

variable {s u : State} {k : Err}

/-- The trap entry with a hard kind, before anything is stored (R250). -/
theorem yields_failsWithRasterOf_raise (hk : k.hard = true) (hu : KeepsRaster s u) :
    Yields (FailsWithRasterOf s) (.next (raise k u)) :=
  yields_next fun _ => ⟨hu, rfl, hk⟩

theorem yields_failsWithRasterOf_next (hu : u.seq ≠ .failed) : Yields (FailsWithRasterOf s) (.next u) :=
  yields_next fun h => absurd h hu

/-- A field read with the truncation test, before anything is stored: the rest of the element is left (R111). -/
theorem yields_failsWithRasterOf_skipc {n : Nat} {rest : State → Out} (hk : k.hard = true) (hu : KeepsRaster s u)
    (hrest : Yields (FailsWithRasterOf s) (rest (bcSkip n u))) : Yields (FailsWithRasterOf s) (skipc n k u rest) :=
  yields_skipc (fun _ => ⟨hu, rfl, hk⟩) hrest

end

theorem nextMacroblock_seq_ne_failed {s : State} (h : s.seq ≠ .failed) : (nextMacroblock s).seq ≠ .failed := by
  rcases nextMacroblock_cases s with ⟨-, e⟩ | ⟨-, -, e⟩ | ⟨-, -, e⟩
  · exact e ▸ h
  · exact e ▸ h
  · exact e ▸ nofun

/-- The end of a block, the only place where pixels are stored, cannot fail (R184). -/
theorem yields_failsWithRasterOf_endBlock {s u : State} (hu : u.seq ≠ .failed) :
    Yields (FailsWithRasterOf s) (endBlock u) :=
  yields_endBlock (fun _ h => absurd h hu) fun _ h => absurd h (nextMacroblock_seq_ne_failed hu)

/-- PICHDR allocates the raster after its last check (R212 to R216). -/
theorem yields_failsWithRasterOf_picHdr (psc : Marker) (fmt : BitVec 2) (scale : BitVec 3) (d : Bits) (s : State) :
    Yields (FailsWithRasterOf s) (execPicHdr psc fmt scale d s) := by
  refine yields_failsWithRasterOf_skipc rfl rfl ?_
  split
  · exact yields_failsWithRasterOf_raise rfl rfl
  refine yields_failsWithRasterOf_skipc rfl rfl ?_
  dsimp only
  split
  · exact yields_failsWithRasterOf_raise rfl rfl
  refine yields_failsWithRasterOf_skipc rfl rfl ?_
  split
  · exact yields_failsWithRasterOf_raise rfl rfl
  refine yields_failsWithRasterOf_skipc rfl rfl ?_
  split
  · exact yields_failsWithRasterOf_raise rfl rfl
  · exact yields_failsWithRasterOf_next nofun

/-- DC can fail on its own field only (R121 to R123). -/
theorem yields_failsWithRasterOf_dc {s : State} (hs : s.seq ≠ .failed) (v : BitVec 10) :
    Yields (FailsWithRasterOf s) (execDc v s) := by
  refine yields_failsWithRasterOf_skipc rfl rfl ?_
  dsimp only
  split
  · exact yields_failsWithRasterOf_next hs
  · exact yields_failsWithRasterOf_endBlock hs

/-- A level is placed, or fails on its code or on the scan index (R127, R128). -/
theorem yields_failsWithRasterOf_levelSymbol {s : State} (hs : s.seq ≠ .failed) (sg : BitVec 1) (m : Nat) :
    Yields (FailsWithRasterOf s) (levelSymbol sg m s) := by
  refine yields_failsWithRasterOf_skipc rfl rfl ?_
  split
  · exact yields_failsWithRasterOf_next hs
  · exact yields_failsWithRasterOf_raise rfl rfl

/-- Every element of a call that has not failed does its checks before it stores or allocates (R192). -/
theorem exec_failsWithRasterOf {s : State} (hs : s.seq ≠ .failed) (i : Instr) :
    Yields (FailsWithRasterOf s) (exec i s) := by
  cases i using Instr.family_cases with
  | alignPad pad => exact yields_failsWithRasterOf_next ((afterAlign_seq (bcAlign s)).trans_ne hs)
  | picHdr psc fmt scale d => exact yields_failsWithRasterOf_picHdr psc fmt scale d s
  | gobHdr m d =>
    show Yields _ (execGobHdr m d s)
    exact yields_failsWithRasterOf_skipc rfl rfl
      (yields_failsWithRasterOf_skipc rfl rfl (yields_failsWithRasterOf_next hs))
  | eosMark =>
    show Yields _ (execEosMark s)
    exact yields_failsWithRasterOf_skipc rfl rfl (yields_failsWithRasterOf_next nofun)
  | trailer m =>
    show Yields _ (execTrailer m s)
    exact yields_failsWithRasterOf_skipc rfl rfl (yields_failsWithRasterOf_next nofun)
  | badMark m =>
    show Yields _ (execBadMark m s)
    exact yields_failsWithRasterOf_skipc rfl rfl (yields_failsWithRasterOf_raise rfl rfl)
  | mbHdrC =>
    show Yields _ (execMbHdrC s)
    exact yields_failsWithRasterOf_skipc rfl rfl (yields_failsWithRasterOf_raise rfl rfl)
  | mbHdr flags =>
    show Yields _ (execMbHdr flags s)
    exact yields_failsWithRasterOf_skipc rfl rfl
      (yields_failsWithRasterOf_skipc rfl rfl (yields_failsWithRasterOf_next hs))
  | mbHdrR flags rsv =>
    show Yields _ (execMbHdrR flags rsv s)
    exact yields_failsWithRasterOf_skipc rfl rfl (yields_failsWithRasterOf_skipc rfl rfl
      (yields_failsWithRasterOf_skipc rfl rfl (yields_failsWithRasterOf_next hs)))
  | mbHdrInvalid low =>
    show Yields _ (execMbHdrInvalid low s)
    exact yields_failsWithRasterOf_skipc rfl rfl
      (yields_failsWithRasterOf_skipc rfl rfl (yields_failsWithRasterOf_raise rfl rfl))
  | dc v => exact yields_failsWithRasterOf_dc hs v
  | run i n r hi =>
    rw [exec_of_runOf hi]
    exact yields_failsWithRasterOf_skipc rfl rfl (yields_failsWithRasterOf_next hs)
  | level i n v hi =>
    rw [exec_of_levelOf hi]
    exact yields_failsWithRasterOf_levelSymbol hs _ _
  | eob =>
    show Yields _ (execEob s)
    exact yields_failsWithRasterOf_skipc rfl rfl (yields_failsWithRasterOf_endBlock hs)
  | runReserved | levelReserved => exact yields_failsWithRasterOf_raise rfl rfl

end Sys2Proof.Machine

namespace Sys2Proof.Proofs

open Sys2Proof Sys2Proof.Machine

/-- Settles O30: a failure comes from a check, every check comes before the store and the allocation, and what comes after
them cannot fail. -/
theorem failingElementLeavesTheRaster : Obligations.FailingElementLeavesTheRaster := fun i _ t hs hexec hfail =>
  exec_failsWithRasterOf hs i t hexec hfail

end Sys2Proof.Proofs
end

section
/-! SUPPORT. The two ends of a macroblock: what its headers do inside `LIMIT`, and what the element that ends block 5 does
(spec 44_macroblock_csc.md R180 to R184, R190; 45_slice_frame_sequencer.md R217, R221). -/

namespace Sys2Proof.Machine

open Sys2Proof

/-! ### The end of block 5 -/

section

variable {s : State}

/-- A macroblock that has no raster, or lies outside it, cannot be stored (R59, R190). -/
theorem storeMacroblock_eq_none (h : s.raster = none ∨ footprintInside s = false) : storeMacroblock s = none := by
  cases hstore : storeMacroblock s with
  | none => rfl
  | some t =>
    obtain ⟨m, hm, hf, -⟩ := storeMacroblock_eq_some hstore
    simp [hm, hf] at h

/-- The end of block 5 inside the raster: the transform, all the pixels, and what follows the macroblock (R180, R184). -/
theorem endBlock_of_inside {m : Memory} (hb : s.blockIdx = 5) (hm : s.raster = some m) (hf : footprintInside s = true) :
    endBlock s = .next (nextMacroblock
      { idct 5 s with raster := some ((List.finRange 256).foldl (storeSample (idct 5 s)) m) }) := by
  rw [endBlock_of_last (by simp [hb]), hb]
  exact endMacroblock_of_store (storeMacroblock_of_inside (s := idct 5 s) hm hf)

/-- The end of block 5 outside the raster (R59). -/
theorem endBlock_of_outside (hb : s.blockIdx = 5) (h : s.raster = none ∨ footprintInside s = false) :
    endBlock s = .fault .rasterBounds := by
  rw [endBlock_of_last (by simp [hb]), endMacroblock, storeMacroblock_eq_none (s := idct s.blockIdx s) h]

/-- DC of block 5 without AC coefficients ends the block (R122). -/
theorem exec_dc_flatLast (v : BitVec 10) (hb : s.blockIdx = 5) (hpos : s.pos + 10 ≤ s.limit)
    (hflat : s.desc.getLsbD 5 = false) : exec (.dc v) s = endBlock (deqDc v (bcSkip 10 (clearCoef s))) := by
  have hac : s.hasAc s.blockIdx = false := by
    rw [hb]
    exact hflat
  rw [exec_dc_inside v hpos, if_neg (Bool.eq_false_iff.mp hac)]

/-! ### After a macroblock -/

theorem nextMacroblock_of_column (h : s.mbIdx + 1 < s.mbw) :
    nextMacroblock s = { s with mbIdx := s.mbIdx + 1, slot := .mbHdr } := if_pos h

theorem nextMacroblock_of_slice (hm : s.mbw ≤ s.mbIdx + 1) (h : s.sliceIdx + 1 < s.slices) :
    nextMacroblock s = { s with sliceIdx := s.sliceIdx + 1, slot := .alignPad } := by
  rw [nextMacroblock, if_neg (Nat.not_lt.mpr hm), if_pos h]

theorem nextMacroblock_of_last (hm : s.mbw ≤ s.mbIdx + 1) (h : s.slices ≤ s.sliceIdx + 1) :
    nextMacroblock s = { s with seq := .readTrailer, slot := .alignPad } := by
  rw [nextMacroblock, if_neg (Nat.not_lt.mpr hm), if_neg (Nat.not_lt.mpr h)]

/-! ### The macroblock headers inside `LIMIT` -/

/-- The coded flag and the descriptor, both inside `LIMIT`: what is behind them decides (R181, R182). -/
theorem skipc_flag_desc {rest : State → Out} (h : s.pos + 9 ≤ s.limit) :
    (skipc 1 .truncatedInput s fun t => skipc 8 .truncatedInput t rest) = rest (bcSkip 9 s) := by
  rw [skipc_of_le (by omega), skipc_of_le (by simpa using h), bcSkip_bcSkip]

theorem exec_mbHdr_inside (flags : BitVec 6) (h : s.pos + 9 ≤ s.limit) :
    exec (.mbHdr flags) s = .next (enterBlocks (acceptDesc (descOf false flags) (bcSkip 9 s))) := by
  rw [exec, execMbHdr, skipc_flag_desc h]

/-- MBHDR.R: the two reserved bits behind the descriptor only move the cursor (R183). -/
theorem exec_mbHdrR_inside (flags : BitVec 6) (rsv : BitVec 2) (h : s.pos + 11 ≤ s.limit) :
    exec (.mbHdrR flags rsv) s =
      .next (enterBlocks (bcSkip 2 (acceptDesc (descOf true flags) (bcSkip 9 s)))) := by
  rw [exec, execMbHdrR, skipc_flag_desc (by omega), skipc_of_le]
  exact h

/-- MBHDR.C: the coded flag alone is read (R181). -/
theorem exec_mbHdrC_inside (h : s.pos + 1 ≤ s.limit) :
    exec .mbHdrC s = .next (raise .unsupportedMacroblock (bcSkip 1 s)) := by
  rw [exec, execMbHdrC, skipc_of_le h]

/-- MBHDR.INVALID: the descriptor is held when its bit 7 fails the element (R182). -/
theorem exec_mbHdrInvalid_inside (low : BitVec 7) (h : s.pos + 9 ≤ s.limit) :
    exec (.mbHdrInvalid low) s = .next (raise .invalidDescriptor (acceptDesc (descInvalid low) (bcSkip 9 s))) := by
  rw [exec, execMbHdrInvalid, skipc_flag_desc h]

end

end Sys2Proof.Machine

namespace Sys2Proof.Proofs

open Sys2Proof Sys2Proof.Machine

/-- Settles O45: both elements come to the end of block 5, which stores where the store is possible. -/
theorem lastBlockStoresTheMacroblock : Obligations.LastBlockStoresTheMacroblock := by
  intro s hb
  refine ⟨fun m hm hf => ⟨fun hpos => ?eobInside, fun v hpos hflat => ?dcInside⟩,
    fun hout => ⟨fun hpos => ?eobOutside, fun v hpos hflat => ?dcOutside⟩,
    nextMacroblock_of_column, nextMacroblock_of_slice, nextMacroblock_of_last⟩
  case eobInside => exact (exec_eob_inside hpos).trans (endBlock_of_inside (s := bcSkip _ s) hb hm hf)
  case dcInside =>
    exact (exec_dc_flatLast v hb hpos hflat).trans
      (endBlock_of_inside (s := deqDc v (bcSkip 10 (clearCoef s))) hb hm hf)
  case eobOutside => exact (exec_eob_inside hpos).trans (endBlock_of_outside (s := bcSkip _ s) hb hout)
  case dcOutside =>
    exact (exec_dc_flatLast v hb hpos hflat).trans
      (endBlock_of_outside (s := deqDc v (bcSkip 10 (clearCoef s))) hb hout)

/-- Settles O39: the fields are all inside `LIMIT`, so the header comes to the block loop. -/
theorem mbHdrCompletes : Obligations.MbHdrCompletes := fun flags rsv _ =>
  ⟨exec_mbHdr_inside flags, exec_mbHdrR_inside flags rsv, fun ext => descOf_bits ext flags⟩

/-- Settles O40: the check that fails comes after the field it is about and before the next one. -/
theorem illegalMbHdrRaises : Obligations.IllegalMbHdrRaises := fun low _ =>
  ⟨exec_mbHdrC_inside, exec_mbHdrInvalid_inside low, descInvalid_bits low⟩

end Sys2Proof.Proofs
end

section
/-! SUPPORT. The colour conversion: the values of the clamp, and neutral chroma (spec 44_macroblock_csc.md R188, R189). -/

namespace Sys2Proof.Machine

open Sys2Proof

/-! ### The clamp -/

section

variable {v : Int}

theorem clamp255_of_neg (h : v < 0) : (clamp255 v).toNat = 0 := by rw [clamp255, if_pos h]; rfl

theorem clamp255_of_gt (h : 255 < v) : (clamp255 v).toNat = 255 := by
  rw [clamp255, if_neg (by omega), if_pos h]
  rfl

/-- A value of the byte range is its own clamp: the byte loses nothing of it. -/
theorem clamp255_of_mem (h0 : 0 ≤ v) (h255 : v ≤ 255) : ((clamp255 v).toNat : Int) = v := by
  rw [clamp255, if_neg (by omega), if_neg (by omega), BitVec.toNat_ofInt]
  omega

end

/-! ### The three channels -/

/-- At chroma 128 both chroma terms are 0, and the three channels are one sum (R188). -/
theorem csc_neutral (c : Cfg) (y : Int) :
    let g := clamp255 ((298 * (y - 16) + (c.cscRound : Int)) / 256)
    csc c y 128 128 = (g, g, g) := by
  simp [csc]

end Sys2Proof.Machine

namespace Sys2Proof.Proofs

open Sys2Proof Sys2Proof.Machine

/-- Settles O59: the sums are the model's own, the gray value and the clamp are the lemmas above, and the four colours are
evaluated. -/
theorem neutralChromaIsGray : Obligations.NeutralChromaIsGray :=
  ⟨fun _ _ _ _ => rfl, csc_neutral, fun _ => ⟨clamp255_of_neg, clamp255_of_gt, clamp255_of_mem⟩,
    by decide, by decide, by decide, by decide⟩

end Sys2Proof.Proofs
end

section
/-! SUPPORT. How a call ends: what holds of every state of a run, and the end of a run within its step bound (spec
45_slice_frame_sequencer.md R229; 60_exceptions.md R253; 70_reset_and_hazards.md R270, R281). -/

namespace Sys2Proof.Machine

open Sys2Proof

/-- What every step keeps holds at the end of a run of any length. -/
theorem run_keeps {P : State → Prop} (hstep : ∀ s t, P s → step s = .next t → P t) {k : Nat} {s t : State} (hs : P s)
    (hrun : Host.Core.run Sys2Proof.core k s = .next t) : P t := by
  induction k generalizing s with
  | zero =>
    cases hrun
    exact hs
  | succ k ih =>
    cases hnext : step s with
    | next u =>
      rw [run_succ_of_next hnext] at hrun
      exact ih (hstep s u hs hnext) hrun
    | fault r =>
      rw [run_succ_of_fault hnext] at hrun
      cases hrun
    | refused r =>
      rw [run_succ_of_refused hnext] at hrun
      cases hrun

/-- Every step keeps the control invariant. -/
theorem State.Inv.of_step {s t : State} (h : s.Inv) (hstep : step s = .next t) : t.Inv := by
  obtain ⟨u, hu, hinv⟩ := Proofs.stepNeverFaultsAndKeepsTheInvariant s h
  cases hstep.symm.trans hu
  exact hinv

/-- No step begins a call: only `START` does (R210). -/
theorem started_of_step {s t : State} (hstep : step s = .next t) : t.started = s.started := by
  by_cases hrun : s.running = true
  · rw [step_of_running hrun] at hstep
    obtain ⟨-, -, -, hstarted⟩ := (exec_frame _ s t hstep).input
    exact hstarted
  · rw [step_of_not_running (by simpa using hrun)] at hstep
    cases hstep
    rfl

/-- A call that has begun and does not run any more has ended (R229). -/
theorem ended_of_not_running {s : State} (hstarted : s.started = true) (hrun : s.running = false) :
    s.seq = .done ∨ s.seq = .failed := by
  by_contra hseq
  have hrunning : s.running = true := (running_iff s).mpr ⟨hstarted, not_or.mp hseq⟩
  exact absurd (hrunning.symm.trans hrun) nofun

end Sys2Proof.Machine

namespace Sys2Proof.Proofs

open Sys2Proof Sys2Proof.Machine

/-- Settles O21: the measure brings every run to an end, every step keeps the invariant and the mark of a call begun, and
without a call no step does anything. -/
theorem callEndsWithinTheStepBound : Obligations.CallEndsWithinTheStepBound := by
  intro s hinv
  obtain ⟨t, hrun, hended⟩ := run_ends hinv le_rfl
  have ht : t.Inv := run_keeps (fun _ _ => State.Inv.of_step) hinv hrun
  have hstarted : t.started = s.started :=
    run_keeps (P := fun u => u.started = s.started) (fun _ _ h hstep => (started_of_step hstep).trans h) rfl hrun
  refine ⟨t, hrun, hended, ht, fun h => ended_of_not_running (hstarted.trans h) hended, fun h => ?_⟩
  have hidle := run_of_step_self (M := Sys2Proof.core) (step_of_not_running (not_running_of_not_started h)) s.stepsLeft
  exact Host.Outcome.next.inj (hrun.symm.trans hidle)

end Sys2Proof.Proofs
end

section
/-! SUPPORT. Where an element takes `SEQ` (spec 45_slice_frame_sequencer.md R211, R216, R217, R219, R222). -/

namespace Sys2Proof.Machine

open Sys2Proof

/-! ### The moves of the sequencer -/

/-- Where element `i` takes `SEQ` on the way from `s` to `t`: each transition has its own elements (R211). -/
inductive SeqMove (i : Instr) (s t : State) : Prop where
  | stays (hseq : t.seq = s.seq)
  | fails (hseq : t.seq = .failed)
  | headerRead (hi : i.slot = .picHdr) (hseq : t.seq = .decodeSlices)
  | lastMacroblock (hi : i.slot = .dc ∨ i.slot = .level) (hseq : t.seq = .readTrailer)
  | earlyEnd (hi : i = .eosMark) (hseq : t.seq = .done) (heos : t.earlyEos = true)
  | trailerRead (hi : ∃ m, i = .trailer m) (hseq : t.seq = .done)

section

variable {i : Instr} {s u : State}

/-- A field read with the truncation test fails, or what is behind it decides where `SEQ` goes (R111). -/
theorem yields_seqMove_skipc {n : Nat} {k : Err} {rest : State → Out}
    (hrest : Yields (SeqMove i s) (rest (bcSkip n u))) : Yields (SeqMove i s) (skipc n k u rest) :=
  yields_skipc (.fails rfl) hrest

theorem yields_seqMove_raise (k : Err) : Yields (SeqMove i s) (.next (raise k u)) := yields_next (.fails rfl)

theorem yields_seqMove_stays (h : u.seq = s.seq) : Yields (SeqMove i s) (.next u) := yields_next (.stays h)

/-- The end of a block stays in `DecodeSlices`, or leaves it after the last macroblock (R217). -/
theorem yields_seqMove_endBlock (hi : i.slot = .dc ∨ i.slot = .level) (h : u.seq = s.seq) :
    Yields (SeqMove i s) (endBlock u) := by
  refine yields_endBlock (fun _ => .stays h) fun m => ?_
  rcases nextMacroblock_cases { idct u.blockIdx u with raster := some m } with ⟨-, e⟩ | ⟨-, -, e⟩ | ⟨-, -, e⟩
  · exact e ▸ .stays h
  · exact e ▸ .stays h
  · exact e ▸ .lastMacroblock hi rfl

end

/-- PICHDR fails or enters the slice loop (R212, R216). -/
theorem yields_seqMove_picHdr (psc : Marker) (fmt : BitVec 2) (scale : BitVec 3) (d : Bits) (s : State) :
    Yields (SeqMove (.picHdr psc fmt scale d) s) (execPicHdr psc fmt scale d s) := by
  refine yields_seqMove_skipc ?_
  split
  · exact yields_seqMove_raise _
  refine yields_seqMove_skipc ?_
  dsimp only
  split
  · exact yields_seqMove_raise _
  refine yields_seqMove_skipc ?_
  split
  · exact yields_seqMove_raise _
  refine yields_seqMove_skipc ?_
  split
  · exact yields_seqMove_raise _
  · exact yields_next (.headerRead rfl rfl)

/-- DC opens the AC loop or ends its block (R122). -/
theorem yields_seqMove_dc (v : BitVec 10) (s : State) : Yields (SeqMove (.dc v) s) (execDc v s) := by
  refine yields_seqMove_skipc ?_
  dsimp only
  split
  · exact yields_seqMove_stays rfl
  · exact yields_seqMove_endBlock (.inl rfl) rfl

/-- A level is placed, or fails at its scan index (R127, R128). -/
theorem yields_seqMove_levelSymbol (i : Instr) (sg : BitVec 1) (m : Nat) (s : State) :
    Yields (SeqMove i s) (levelSymbol sg m s) := by
  refine yields_seqMove_skipc ?_
  split
  · exact yields_seqMove_stays rfl
  · exact yields_seqMove_raise _

/-- TRAILER ends the call, whatever the marker is (R222). -/
theorem yields_seqMove_trailer (m : Marker) (s : State) : Yields (SeqMove (.trailer m) s) (execTrailer m s) :=
  yields_seqMove_skipc (yields_next (.trailerRead ⟨m, rfl⟩ rfl))

/-- Every element makes one of the moves. -/
theorem exec_seqMove (i : Instr) (s : State) : Yields (SeqMove i s) (exec i s) := by
  cases i using Instr.family_cases with
  | alignPad pad => exact yields_seqMove_stays (afterAlign_seq (bcAlign s))
  | picHdr psc fmt scale d => exact yields_seqMove_picHdr psc fmt scale d s
  | gobHdr m d =>
    show Yields _ (execGobHdr m d s)
    exact yields_seqMove_skipc (yields_seqMove_skipc (yields_seqMove_stays rfl))
  | eosMark =>
    show Yields _ (execEosMark s)
    exact yields_seqMove_skipc (yields_next (.earlyEnd rfl rfl rfl))
  | trailer m => exact yields_seqMove_trailer m s
  | badMark m =>
    show Yields _ (execBadMark m s)
    exact yields_seqMove_skipc (yields_seqMove_raise _)
  | mbHdrC =>
    show Yields _ (execMbHdrC s)
    exact yields_seqMove_skipc (yields_seqMove_raise _)
  | mbHdr flags =>
    show Yields _ (execMbHdr flags s)
    exact yields_seqMove_skipc (yields_seqMove_skipc (yields_seqMove_stays rfl))
  | mbHdrR flags rsv =>
    show Yields _ (execMbHdrR flags rsv s)
    exact yields_seqMove_skipc (yields_seqMove_skipc (yields_seqMove_skipc (yields_seqMove_stays rfl)))
  | mbHdrInvalid low =>
    show Yields _ (execMbHdrInvalid low s)
    exact yields_seqMove_skipc (yields_seqMove_skipc (yields_seqMove_raise _))
  | dc v => exact yields_seqMove_dc v s
  | run i n r hi =>
    rw [exec_of_runOf hi]
    exact yields_seqMove_skipc (yields_seqMove_stays rfl)
  | level i n v hi =>
    rw [exec_of_levelOf hi]
    exact yields_seqMove_levelSymbol i _ _ s
  | eob =>
    show Yields _ (execEob s)
    exact yields_seqMove_skipc (yields_seqMove_endBlock (.inr rfl) rfl)
  | runReserved | levelReserved => exact yields_seqMove_raise _

/-! ### The moves of a running call -/

/-- A sequencer state can stay (R211). -/
theorem Seq.canFollow_self (q : Seq) : q.canFollow q = true := by cases q <;> rfl

/-- Every sequencer state of a running call can go to `Failed` (R211). -/
theorem canFollow_failed {s : State} (hrun : s.running = true) : s.seq.canFollow .failed = true := by
  obtain ⟨-, hdone, -⟩ := (running_iff s).mp hrun
  cases hs : s.seq
  case done => exact absurd hs hdone
  all_goals rfl

section

variable {s t : State}

/-- PICHDR is read in `ReadHeader` (R70). -/
theorem State.Inv.seq_of_picHdr (h : s.Inv) (hrun : s.running = true) (hslot : s.slot = .picHdr) :
    s.seq = .readHeader := by
  by_contra hseq
  exact h.slot_ne_picHdr hrun hseq hslot

/-- A block element is read in `DecodeSlices` (R70). -/
theorem State.Inv.seq_of_block (h : s.Inv) (hrun : s.running = true) (hslot : s.slot = .dc ∨ s.slot = .level) :
    s.seq = .decodeSlices := by
  have hp : s.slot ≠ .alignPad ∧ s.slot ≠ .picHdr ∧ s.slot ≠ .trailer := by
    rcases hslot with e | e <;> rw [e] <;> decide
  exact (h.inSlices hrun rfl hp).1.seq

/-- EOSMARK is read in `DecodeSlices`, where no error has been recorded (R27, R70). -/
theorem State.Inv.inSlices_of_eosMark (h : s.Inv) (hrun : s.running = true) (hi : fetch s = .eosMark) : s.InSlices := by
  have hslot : s.slot = .sliceHdr := by rw [← fetch_slot, hi]; rfl
  exact (h.inSlices hrun hslot (by decide)).1

/-- TRAILER is read in `ReadTrailer`, where the stream has not ended early (R34, R70). -/
theorem State.Inv.inTrailer_of_trailer (h : s.Inv) (hrun : s.running = true) {m : Marker} (hi : fetch s = .trailer m) :
    s.InTrailer := by
  have hslot : s.slot = .trailer := by rw [← fetch_slot, hi]; rfl
  exact h.inTrailer hrun hslot

/-- The element of a move stands in the sequencer state from which the move is listed (R211). -/
theorem SeqMove.canFollow (h : SeqMove (fetch s) s t) (hinv : s.Inv) (hrun : s.running = true) :
    s.seq.canFollow t.seq = true := by
  cases h with
  | stays hseq => rw [hseq, Seq.canFollow_self]
  | fails hseq => rw [hseq, canFollow_failed hrun]
  | headerRead hi hseq =>
    rw [fetch_slot] at hi
    rw [hinv.seq_of_picHdr hrun hi, hseq]
    rfl
  | lastMacroblock hi hseq =>
    rw [fetch_slot] at hi
    rw [hinv.seq_of_block hrun hi, hseq]
    rfl
  | earlyEnd hi hseq =>
    rw [(hinv.inSlices_of_eosMark hrun hi).seq, hseq]
    rfl
  | trailerRead hi hseq =>
    obtain ⟨m, hi⟩ := hi
    rw [(hinv.inTrailer_of_trailer hrun hi).seq, hseq]
    rfl

/-- A move into `Done` is an end of the stream, from `DecodeSlices`, or a trailer, from `ReadTrailer` (R219, R222). -/
theorem SeqMove.into_done (h : SeqMove (fetch s) s t) (hinv : s.Inv) (hrun : s.running = true) (hdone : t.seq = .done) :
    (s.InSlices ∧ fetch s = .eosMark ∧ t.earlyEos = true) ∨ (s.InTrailer ∧ ∃ m, fetch s = .trailer m) := by
  cases h with
  | stays hseq =>
    obtain ⟨-, hs, -⟩ := (running_iff s).mp hrun
    exact absurd (hseq.symm.trans hdone) hs
  | fails hseq | headerRead _ hseq | lastMacroblock _ hseq => exact absurd (hseq.symm.trans hdone) nofun
  | earlyEnd hi _ heos => exact .inl ⟨hinv.inSlices_of_eosMark hrun hi, hi, heos⟩
  | trailerRead hi _ =>
    obtain ⟨m, hi⟩ := hi
    exact .inr ⟨hinv.inTrailer_of_trailer hrun hi, m, hi⟩

end

end Sys2Proof.Machine

namespace Sys2Proof.Proofs

open Sys2Proof Sys2Proof.Machine

/-- Settles O23: the element at the cursor makes one of the moves, from the phase in which it stands; the clean registers of
that phase and the frame give the flag and the error of the end. -/
theorem sequencerMakesOnlyTheListedTransitions : Obligations.SequencerMakesOnlyTheListedTransitions := by
  intro s t hinv hstep
  by_cases hrun : s.running = true
  · rw [step_of_running hrun] at hstep
    have hmove := exec_seqMove (fetch s) s t hstep
    have hframe := exec_frame (fetch s) s t hstep
    refine ⟨hmove.canFollow hinv hrun, fun hs hdone => ?eos, fun hs hdone => ?trailer⟩
    case eos =>
      rcases hmove.into_done hinv hrun hdone with ⟨hp, hi, heos⟩ | ⟨hp, -⟩
      · obtain ⟨herr, -⟩ := hframe.error (by simp [hdone]) (by simp [hi, Instr.slot])
        exact ⟨hi, heos, herr.trans hp.noError⟩
      · exact absurd (hs.symm.trans hp.seq) nofun
    case trailer =>
      rcases hmove.into_done hinv hrun hdone with ⟨hp, -⟩ | ⟨hp, m, hi⟩
      · exact absurd (hs.symm.trans hp.seq) nofun
      · exact ⟨⟨m, hi⟩, (hframe.earlyEos (by simp [hi])).trans hp.earlyEos⟩
  · rw [step_of_not_running (by simpa using hrun)] at hstep
    cases hstep
    exact ⟨Seq.canFollow_self _, fun hs hdone => absurd (hs.symm.trans hdone) nofun,
      fun hs hdone => absurd (hs.symm.trans hdone) nofun⟩

end Sys2Proof.Proofs
end

section
/-! SUPPORT. PICHDR and the markers inside `LIMIT`: where each accepts, and where each fails (spec
45_slice_frame_sequencer.md R212 to R223; 60_exceptions.md R242, R245, R246). -/

namespace Sys2Proof.Machine

open Sys2Proof

/-! ### The picture header -/

section

variable {psc : Marker} {fmt : BitVec 2} {scale : BitVec 3} {s : State}

/-- A wrong start marker fails before the format is read (R212). -/
theorem exec_picHdr_wrongPsc (d : Bits) (h : s.pos + 22 ≤ s.limit) (hpsc : psc ≠ s.cfg.psc) :
    exec (.picHdr psc fmt scale d) s = .next (raise .invalidHeader (bcSkip 22 s)) := by
  rw [exec, execPicHdr, skipc_of_le h]
  exact if_pos hpsc

/-- Format 0 fails before the scale is read (R212). -/
theorem exec_picHdr_zeroFmt (d : Bits) (h : s.pos + 24 ≤ s.limit) (hpsc : psc = s.cfg.psc) (hfmt : fmt = 0) :
    exec (.picHdr psc fmt scale d) s = .next (raise .invalidHeader { bcSkip 24 s with fmt := fmt }) := by
  rw [exec_picHdr_of_psc d (by omega) hpsc, picHdrFormat, skipc_of_le, bcSkip_bcSkip]
  · exact if_pos hfmt
  · exact h

/-- Scale 0 fails before the dimensions are computed (R212). -/
theorem exec_picHdr_zeroScale (d : Bits) (h : s.pos + 27 ≤ s.limit) (hpsc : psc = s.cfg.psc) (hfmt : fmt ≠ 0)
    (hscale : scale = 0) :
    exec (.picHdr psc fmt scale d) s =
      .next (raise .invalidHeader { bcSkip 27 s with fmt := fmt, scale := scale }) := by
  rw [exec_picHdr_of_fmt d (by omega) hpsc hfmt, picHdrScale, skipc_of_le]
  · exact if_pos hscale
  · exact h

/-- With the discarded bits inside `LIMIT`, the dimensions decide (R214 to R216). -/
theorem picHdrDiscard_of_le (h : s.pos + s.cfg.hdrDiscardBits ≤ s.limit) :
    picHdrDiscard s =
      if dimsOk s.cfg s.width s.height then .next (enterSlices (bcSkip s.cfg.hdrDiscardBits s))
      else .next (raise .invalidHeader (bcSkip s.cfg.hdrDiscardBits s)) := by
  rw [picHdrDiscard, skipc_of_le h, bcSkip_cfg, bcSkip_width, bcSkip_height]
  cases dimsOk s.cfg s.width s.height <;> rfl

end

/-! ### The markers -/

section

variable {s : State}

/-- GOBHDR: the marker and the bits behind it only move the cursor, then the slice begins (R220). -/
theorem exec_gobHdr_inside (m : Marker) (d : Bits) (h : s.pos + (22 + s.cfg.gobExtraBits) ≤ s.limit) :
    exec (.gobHdr m d) s = .next (enterSlice (bcSkip (22 + s.cfg.gobExtraBits) s)) := by
  rw [exec, execGobHdr, skipc_of_le (by omega), skipc_of_le, bcSkip_bcSkip]
  · rfl
  · rwa [← Nat.add_assoc] at h

/-- EOSMARK ends the call with `EARLY_EOS` (R219). -/
theorem exec_eosMark_inside (h : s.pos + 22 ≤ s.limit) :
    exec .eosMark s = .next (finish { bcSkip 22 s with earlyEos := true }) := by
  rw [exec, execEosMark, skipc_of_le h]

/-- TRAILER ends the call either way; the soft error marks a wrong one (R222). -/
theorem exec_trailer_inside (m : Marker) (h : s.pos + 22 ≤ s.limit) :
    exec (.trailer m) s =
      .next (finish (if m ≠ s.cfg.eop then markBadTrailer (bcSkip 22 s) else bcSkip 22 s)) := by
  rw [exec, execTrailer, skipc_of_le h]
  rfl

/-- BADMARK fails after the marker (R218). -/
theorem exec_badMark_inside (m : Marker) (h : s.pos + 22 ≤ s.limit) :
    exec (.badMark m) s = .next (raise .badSliceMarker (bcSkip 22 s)) := by
  rw [exec, execBadMark, skipc_of_le h]

end

end Sys2Proof.Machine

namespace Sys2Proof.Proofs

open Sys2Proof Sys2Proof.Machine

/-- Settles O32: every field is inside `LIMIT` and accepted, so the header comes to the slice loop. -/
theorem picHdrCompletes : Obligations.PicHdrCompletes := by
  intro fmt scale d s h hfmt hscale hdims
  rw [← Nat.add_assoc] at h ⊢
  exact (exec_picHdr_of_scale d (by omega) rfl hfmt hscale).trans ((picHdrDiscard_of_le h).trans (if_pos hdims))

/-- Settles O33: the first field that is refused fails, once those before it are accepted. -/
theorem picHdrRejectsIllegalFields : Obligations.PicHdrRejectsIllegalFields := by
  intro psc fmt scale d s
  refine ⟨fun hpsc h => ?marker, fun hpsc hfmt h => ?format, fun hpsc hfmt hscale h => ?scale,
    fun hpsc hfmt hscale h hdims => ?dimensions⟩
  case marker => exact exec_picHdr_wrongPsc d h hpsc
  case format =>
    subst hfmt
    exact exec_picHdr_zeroFmt d h hpsc rfl
  case scale =>
    subst hscale
    exact exec_picHdr_zeroScale d h hpsc hfmt rfl
  case dimensions =>
    rw [← Nat.add_assoc] at h ⊢
    exact (exec_picHdr_of_scale d (by omega) hpsc hfmt hscale).trans
      ((picHdrDiscard_of_le h).trans (if_neg (Bool.eq_false_iff.mp hdims)))

/-- Settles O35: GOBHDR comes to the macroblock loop, EOSMARK to the end of the call. -/
theorem sliceMarkersComplete : Obligations.SliceMarkersComplete := fun _ => ⟨exec_gobHdr_inside, exec_eosMark_inside⟩

/-- Settles O36: the comparison with `EOP` decides on the soft error, and on nothing else. -/
theorem trailerCompletes : Obligations.TrailerCompletes := by
  intro m s h
  rw [exec_trailer_inside m h]
  refine ⟨fun hm => ?_, fun hm => ?_⟩
  · rw [if_neg (not_not.mpr hm)]
    rfl
  · rw [if_pos hm]
    rfl

/-- Settles O37: a marker that is none of the slice position's is an error once it is read. -/
theorem badMarkRaisesBadSliceMarker : Obligations.BadMarkRaisesBadSliceMarker := fun m _ => exec_badMark_inside m

end Sys2Proof.Proofs
end
